-- ==== Sys2Proof/Word.lean ====
section
/-! DEFINITION. The word types of the OWC and the two widening operations of 00_scope.md R8. -/

namespace Sys2Proof

/-- `u8` (R8): a byte of a page, of the wire, of OP or ARG. -/
abbrev Byte := BitVec 8

/-- A 16-bit command word, OP in the high byte and ARG in the low byte (R130). -/
abbrev CmdWord := BitVec 16

/-- A 32-bit host data word (R30). -/
abbrev Word := BitVec 32

/-- Nine bytes moved as a unit, byte 0 first (R90). -/
abbrev Page := Vector Byte 9

/-- `zext_32` (R8). -/
def zext32 {n : Nat} (x : BitVec n) : Word := x.setWidth 32

/-- `sext_32` (R8). -/
def sext32 {n : Nat} (x : BitVec n) : Word := x.signExtend 32

end Sys2Proof
end

