-- ==== Sys2Proof/Syntax.lean ====
section
/-! DEFINITION. The instructions of the OWC: one constructor for each row of spec/opcode_table.json.

The 24 rows of format CMD16 are the host commands (30_encoding.md R133). Each carries the whole ARG byte, also
where ARG is ignored (R132): CMD reads back the accepted word with its ARG (10_state.md R31). The 7 rows of format
WIRE8 are the command bytes the OWC sends on the line (R137 to R143); they have no operand. -/

namespace Sys2Proof

inductive Instr where
  /-- BUS_RESET, OP 0x01 (R173). -/
  | busReset (arg : Byte)
  /-- WRITE_BIT, OP 0x02, bit `arg[0]` (R174). -/
  | writeBit (arg : Byte)
  /-- READ_BIT, OP 0x03 (R175). -/
  | readBit (arg : Byte)
  /-- WRITE_BYTE, OP 0x04, byte `arg` (R176). -/
  | writeByte (arg : Byte)
  /-- READ_BYTE, OP 0x05 (R177). -/
  | readByte (arg : Byte)
  /-- READ_PAGE, OP 0x10, page `arg` (R206). -/
  | readPage (arg : Byte)
  /-- WRITE_PAGE, OP 0x11, page `arg` (R207). -/
  | writePage (arg : Byte)
  /-- START_VCONV, OP 0x20 (R293). -/
  | startVConv (arg : Byte)
  /-- START_TCONV, OP 0x21 (R294). -/
  | startTConv (arg : Byte)
  /-- HAS_DATA_V, OP 0x22 (R296). -/
  | hasDataV (arg : Byte)
  /-- HAS_DATA_T, OP 0x23 (R297). -/
  | hasDataT (arg : Byte)
  /-- READ_VOLTAGE, OP 0x24 (R299). -/
  | readVoltage (arg : Byte)
  /-- READ_TEMPERATURE, OP 0x25 (R300). -/
  | readTemperature (arg : Byte)
  /-- GET_CURRENT, OP 0x26 (R243). -/
  | getCurrent (arg : Byte)
  /-- GET_CAPACITY, OP 0x27 (R244). -/
  | getCapacity (arg : Byte)
  /-- ENABLE_IAD, OP 0x30 (R272). -/
  | enableIAD (arg : Byte)
  /-- DISABLE_IAD, OP 0x31 (R273). -/
  | disableIAD (arg : Byte)
  /-- ENABLE_CA, OP 0x32 (R274). -/
  | enableCA (arg : Byte)
  /-- DISABLE_CA, OP 0x33 (R275). -/
  | disableCA (arg : Byte)
  /-- SELECT_INPUT, OP 0x34, bit `arg[0]` (R276). -/
  | selectInput (arg : Byte)
  /-- DECODE_TEMP, OP 0x40 (R239). -/
  | decodeTemp (arg : Byte)
  /-- DECODE_VOLT, OP 0x41 (R240). -/
  | decodeVolt (arg : Byte)
  /-- DECODE_CURR, OP 0x42 (R241). -/
  | decodeCurr (arg : Byte)
  /-- DECODE_CAP, OP 0x43 (R242). -/
  | decodeCap (arg : Byte)
  /-- SkipROM, wire byte 0xCC (R137). -/
  | skipROM
  /-- RecallMemory, wire byte 0xB8 (R138). -/
  | recallMemory
  /-- ReadScratchpad, wire byte 0xBE (R139). -/
  | readScratchpad
  /-- WriteScratchpad, wire byte 0x4E (R140). -/
  | writeScratchpad
  /-- CopyScratchpad, wire byte 0x48 (R141). -/
  | copyScratchpad
  /-- VoltageConvert, wire byte 0xB4 (R142). -/
  | voltageConvert
  /-- TempConvert, wire byte 0x44 (R143). -/
  | tempConvert
  deriving DecidableEq, Repr

/-- One word of either format as the spec numbers its bits: a CMD16 command word (R130) or a WIRE8 byte
(30_encoding.md section 3). -/
inductive Encoded where
  | cmd16 (w : CmdWord)
  | wire8 (b : Byte)
  deriving DecidableEq, Repr

/-- What the command decoder answers for a word (R135): the operation it spells, or ILLEGAL with the OP that
selects no operation (R134). -/
inductive Decoded where
  | instr (i : Instr)
  | illegal (op : Byte)
  deriving DecidableEq, Repr

/-- A line of the assembler notation (R146): a mnemonic and, if written, a number. -/
structure AsmLine where
  mnemonic : String
  arg : Option Nat
  deriving DecidableEq, Repr

end Sys2Proof
end

