-- ==== Sys2Proof/Config.lean ====
section
/-! DEFINITION. What an integration of the OWC fixes (00_scope.md R6, R7), and the free values: constants with no body,
so that nothing can be proved of the value itself. -/

namespace Sys2Proof.Config

/-- N_PAGES (R6). -/
def nPages : Nat := 8

/-- PAGE_BYTES (R6). -/
def pageBytes : Nat := 9

/-- WINDOW_BYTES (R6). -/
def windowBytes : Nat := 0x80

end Sys2Proof.Config

namespace Sys2Proof

/-- The timing parameters a `Wait` names (R6). -/
inductive TimeParam where
  | tRSTL
  | tMSP
  | tRSTHRem
  | tW1L
  | tW1R
  | tW0L
  | tRec
  | tRL
  | tRDV
  | tRRec
  deriving DecidableEq, Repr

/-- The timing set, with the defaults of R6. No rule's result depends on it (R380). DESIGN CHOICE: whole numbers of
microseconds; R6 gives the unit only (log 24). -/
structure TimingSet where
  tRSTL : Nat := 480
  tMSP : Nat := 60
  tRSTHRem : Nat := 420
  tSlot : Nat := 70
  tW1L : Nat := 6
  tW1R : Nat := 64
  tW0L : Nat := 60
  tRec : Nat := 10
  tRL : Nat := 6
  tRDV : Nat := 9
  tRRec : Nat := 55
  deriving DecidableEq, Repr, Inhabited

/-- The nominal length of a `Wait` that names `p` (R162). -/
def TimingSet.micros (ts : TimingSet) : TimeParam → Nat
  | .tRSTL => ts.tRSTL
  | .tMSP => ts.tMSP
  | .tRSTHRem => ts.tRSTHRem
  | .tW1L => ts.tW1L
  | .tW1R => ts.tW1R
  | .tW0L => ts.tW0L
  | .tRec => ts.tRec
  | .tRL => ts.tRL
  | .tRDV => ts.tRDV
  | .tRRec => ts.tRRec

/-- The default timing set (R6, 92_eei_decisions.md D17). -/
def TimingSet.default : TimingSet := {}

/-- The parameters of R6 that an integration supplies: the OPEN ones and the timing set. DESIGN CHOICE: CLK_HZ, T_SLACK and
the timing set are whole numbers of their units, which are all R6 gives (log 24). -/
structure Params where
  /-- REG_BASE, the host address of the window. -/
  regBase : Nat
  /-- CLK_HZ, the clock of the timebase. -/
  clkHz : Nat
  /-- T_SLACK, the largest overrun of a wait, in microseconds. -/
  tSlack : Nat
  /-- RSENSE_OHMS, host side. -/
  rsenseOhms : Rat
  timing : TimingSet := {}
  deriving DecidableEq, Repr, Inhabited

namespace Config

/-- The parameters of this integration. They are OPEN in the spec (R6), so the model fixes none of them
(log 9, log 19). -/
opaque params : Params

/-- FREE VALUE: the level of the line at the n-th sample when the free LINE has no listed sample left (R163, log 3). -/
opaque lineLevel : Nat → Bool

/-- FREE VALUE: what a host read of the register at an offset gives while BUSY = 1 (R86), before its reserved bits are
cleared. The first argument is the epoch of the read, so two reads with no step between them agree (R83, log 7). -/
opaque busyRead : Nat → Nat → Word

/-- FREE VALUE: what a failed operation leaves in the output register at an offset (R338), before its reserved bits are
cleared. The first argument is the epoch of the `Finish` (log 6). -/
opaque failedOutput : Nat → Nat → Word

/-- FREE VALUE: what a failed operation that lists STATUS.READY as an output leaves in it (R338, log 6). -/
opaque failedReady : Nat → Bool

end Config

end Sys2Proof
end

