-- ==== Sys2Proof/WellFormed.lean ====
section
/-! DEFINITION. What is well formed: which rows are host commands and which are wire commands, which assembler lines
assemble, and which parameter sets are legal. The operands of `Instr` need no check: a byte field holds every value the
encoding admits, and no operation rejects a command for its ARG bits (30_encoding.md R132). -/

namespace Sys2Proof

/-- The row is of format WIRE8: a byte the OWC sends, which no CMD word selects (30_encoding.md section 3). -/
def Instr.isWireCommand : Instr → Bool
  | .skipROM | .recallMemory | .readScratchpad | .writeScratchpad | .copyScratchpad | .voltageConvert | .tempConvert => true
  | .busReset _ | .writeBit _ | .readBit _ | .writeByte _ | .readByte _ | .readPage _ | .writePage _ | .startVConv _ | .startTConv _ | .hasDataV _ | .hasDataT _ | .readVoltage _
  | .readTemperature _ | .getCurrent _ | .getCapacity _ | .enableIAD _ | .disableIAD _ | .enableCA _ | .disableCA _ | .selectInput _ | .decodeTemp _ | .decodeVolt _ | .decodeCurr _ | .decodeCap _ => false

/-- The instruction is well formed as a HOST command: a row of format CMD16, which a CMD word can spell (R133). -/
def Instr.isHostCommand (i : Instr) : Bool := !i.isWireCommand

/-- An assembler line's number lies in 0..255 (R146). -/
def AsmLine.argInRange (a : AsmLine) : Bool :=
  match a.arg with
  | none => true
  | some n => decide (n ≤ 255)

/-- The constraints of R7 on a timing set, with T_SLACK, and T_W1R = T_SLOT - T_W1L as the table of R6 writes it. -/
def TimingSet.legal (ts : TimingSet) (slack : Nat) : Bool :=
  decide (480 ≤ ts.tRSTL) && decide (60 ≤ ts.tMSP) && decide (ts.tMSP + slack ≤ 70)
    && decide (ts.tW1L + ts.tW1R = ts.tW0L + ts.tRec) && decide (ts.tW1L < ts.tW0L)
    && decide (9 ≤ ts.tRL + ts.tRDV) && decide (ts.tRL + ts.tRDV ≤ 15)
    && decide (ts.tW1L + ts.tW1R = ts.tSlot)

/-- A legal parameter record: REG_BASE aligned to the window, a running clock, a positive sense resistance (the OPEN
table of 92_eei_decisions.md) and a legal timing set (R7). DESIGN CHOICE: of what the table asks of CLK_HZ only `> 0` is
tested; it does not say how much is "enough to time 1 µs within T_SLACK", and the model sets no bound (log 25). -/
def Params.legal (p : Params) : Bool :=
  decide (p.regBase % Config.windowBytes = 0) && decide (0 < p.clkHz) && decide (0 < p.rsenseOhms)
    && p.timing.legal p.tSlack

end Sys2Proof
end

