-- ==== Sys2Proof/Decode.lean ====
section
/-! DEFINITION. Decoding and encoding (30_encoding.md): the host command word CMD16 (R130 to R135), the wire bytes WIRE8
(R137 to R143), and the assembler notation (R146). -/

namespace Sys2Proof

/-- The OP field of a command word, bits 15:8 (R130). -/
def opField (w : CmdWord) : Byte := w.extractLsb' 8 8

/-- The ARG field of a command word, bits 7:0 (R130). -/
def argField (w : CmdWord) : Byte := w.extractLsb' 0 8

/-- A row of the opcode map (R133): the OP value, the mnemonic, and the operation with its ARG. -/
structure HostRow where
  op : Byte
  mnemonic : String
  make : Byte → Instr

/-- The opcode map (R133). -/
def hostRows : List HostRow :=
  [⟨0x01, "BUS_RESET", .busReset⟩,
   ⟨0x02, "WRITE_BIT", .writeBit⟩,
   ⟨0x03, "READ_BIT", .readBit⟩,
   ⟨0x04, "WRITE_BYTE", .writeByte⟩,
   ⟨0x05, "READ_BYTE", .readByte⟩,
   ⟨0x10, "READ_PAGE", .readPage⟩,
   ⟨0x11, "WRITE_PAGE", .writePage⟩,
   ⟨0x20, "START_VCONV", .startVConv⟩,
   ⟨0x21, "START_TCONV", .startTConv⟩,
   ⟨0x22, "HAS_DATA_V", .hasDataV⟩,
   ⟨0x23, "HAS_DATA_T", .hasDataT⟩,
   ⟨0x24, "READ_VOLTAGE", .readVoltage⟩,
   ⟨0x25, "READ_TEMPERATURE", .readTemperature⟩,
   ⟨0x26, "GET_CURRENT", .getCurrent⟩,
   ⟨0x27, "GET_CAPACITY", .getCapacity⟩,
   ⟨0x30, "ENABLE_IAD", .enableIAD⟩,
   ⟨0x31, "DISABLE_IAD", .disableIAD⟩,
   ⟨0x32, "ENABLE_CA", .enableCA⟩,
   ⟨0x33, "DISABLE_CA", .disableCA⟩,
   ⟨0x34, "SELECT_INPUT", .selectInput⟩,
   ⟨0x40, "DECODE_TEMP", .decodeTemp⟩,
   ⟨0x41, "DECODE_VOLT", .decodeVolt⟩,
   ⟨0x42, "DECODE_CURR", .decodeCurr⟩,
   ⟨0x43, "DECODE_CAP", .decodeCap⟩]

/-- The wire command bytes (R137 to R143). -/
def wireRows : List (Byte × Instr) :=
  [(0xCC, .skipROM),
   (0xB8, .recallMemory),
   (0xBE, .readScratchpad),
   (0x4E, .writeScratchpad),
   (0x48, .copyScratchpad),
   (0xB4, .voltageConvert),
   (0x44, .tempConvert)]

/-- Decoding a command word (R135): the row whose OP equals `w[15:8]` exactly (R131), with ARG `w[7:0]`; otherwise
ILLEGAL, by its OP (R134). -/
def decode (w : CmdWord) : Decoded :=
  match hostRows.find? (fun r => r.op == opField w) with
  | some r => .instr (r.make (argField w))
  | none => .illegal (opField w)

/-- The wire command a byte is, matched with mask 0xFF (30_encoding.md section 3). -/
def decodeWire (b : Byte) : Option Instr :=
  (wireRows.find? (fun r => r.1 == b)).map Prod.snd

/-- Decoding a word of either format; `none` where a command word spells ILLEGAL or a byte is no wire command. -/
def decodeEncoded : Encoded → Option Instr
  | .cmd16 w =>
    match decode w with
    | .instr i => some i
    | .illegal _ => none
  | .wire8 b => decodeWire b

/-- The word of an operation: OP in bits 15:8 and ARG in bits 7:0 (R146). -/
def cmdWord (op arg : Byte) : CmdWord := op ++ arg

/-- The word of an instruction: the OP of R133 with its ARG, or the wire byte of R137 to R143. -/
def encode : Instr → Encoded
  | .busReset arg => .cmd16 (cmdWord 0x01 arg)
  | .writeBit arg => .cmd16 (cmdWord 0x02 arg)
  | .readBit arg => .cmd16 (cmdWord 0x03 arg)
  | .writeByte arg => .cmd16 (cmdWord 0x04 arg)
  | .readByte arg => .cmd16 (cmdWord 0x05 arg)
  | .readPage arg => .cmd16 (cmdWord 0x10 arg)
  | .writePage arg => .cmd16 (cmdWord 0x11 arg)
  | .startVConv arg => .cmd16 (cmdWord 0x20 arg)
  | .startTConv arg => .cmd16 (cmdWord 0x21 arg)
  | .hasDataV arg => .cmd16 (cmdWord 0x22 arg)
  | .hasDataT arg => .cmd16 (cmdWord 0x23 arg)
  | .readVoltage arg => .cmd16 (cmdWord 0x24 arg)
  | .readTemperature arg => .cmd16 (cmdWord 0x25 arg)
  | .getCurrent arg => .cmd16 (cmdWord 0x26 arg)
  | .getCapacity arg => .cmd16 (cmdWord 0x27 arg)
  | .enableIAD arg => .cmd16 (cmdWord 0x30 arg)
  | .disableIAD arg => .cmd16 (cmdWord 0x31 arg)
  | .enableCA arg => .cmd16 (cmdWord 0x32 arg)
  | .disableCA arg => .cmd16 (cmdWord 0x33 arg)
  | .selectInput arg => .cmd16 (cmdWord 0x34 arg)
  | .decodeTemp arg => .cmd16 (cmdWord 0x40 arg)
  | .decodeVolt arg => .cmd16 (cmdWord 0x41 arg)
  | .decodeCurr arg => .cmd16 (cmdWord 0x42 arg)
  | .decodeCap arg => .cmd16 (cmdWord 0x43 arg)
  | .skipROM => .wire8 0xCC
  | .recallMemory => .wire8 0xB8
  | .readScratchpad => .wire8 0xBE
  | .writeScratchpad => .wire8 0x4E
  | .copyScratchpad => .wire8 0x48
  | .voltageConvert => .wire8 0xB4
  | .tempConvert => .wire8 0x44

/-- The CMD16 word of a host command; a wire command has none, because no CMD word selects it. -/
def hostWord? (i : Instr) : Option CmdWord :=
  match encode i with
  | .cmd16 w => some w
  | .wire8 _ => none

/-- Assembling a line (R146): `OP << 8 | arg`, or `OP << 8` without an argument; `none` for an unknown mnemonic or a
number outside 0..255. -/
def assemble (a : AsmLine) : Option CmdWord :=
  if a.argInRange then
    (hostRows.find? (fun r => r.mnemonic == a.mnemonic)).map
      (fun r => cmdWord r.op (BitVec.ofNat 8 (a.arg.getD 0)))
  else none

/-- The host's reading of a table row: a row of 8 bits is a wire byte, a row of 16 bits a command word, the one word of
the instruction in both formats (R130). -/
def decodeTableWord (nbits w : Nat) : Option Instr :=
  if nbits = 8 then decodeEncoded (.wire8 (BitVec.ofNat 8 w))
  else if nbits = 16 then decodeEncoded (.cmd16 (BitVec.ofNat 16 w))
  else none

end Sys2Proof
end

