-- ==== Sys2Proof/Machine/State.lean ====
section
/-! DEFINITION. The state of the OWC (10_state.md), the inputs and the environment that stand at its ports, and the state
right after reset (R55, R361). Plain data throughout. -/

namespace Sys2Proof.Machine

/-- STATUS.BUS_STATE (R38): the codes 0 to 3 in this order; 4 to 7 never appear. -/
inductive BusState where
  | idle
  | reset
  | presence
  | bitSlot
  deriving DecidableEq, Repr

/-- STATUS.RESULT (R34, R320): the codes 0 to 4 in this order; 5 to 7 are never produced. -/
inductive ResultCode where
  | ok
  | deviceNotFound
  | badParameter
  | operationError
  | illegalCommand
  deriving DecidableEq, Repr

/-- A PHY event of the trace notation (R10): `L`, `R`, `W(t)` and `S=v`. A wait names its parameter, so a trace does
not depend on the timing set. -/
inductive Event where
  | low
  | release
  | wait (t : TimeParam)
  | sample (v : Bool)
  deriving DecidableEq, Repr

/-- The two busy bits of page 0 byte 0 (R292). -/
inductive BusyBit where
  /-- bit 6 -/
  | voltage
  /-- bit 4 -/
  | temperature
  deriving DecidableEq, Repr

/-- The mask step of a configuration mutator (R272 to R276). -/
inductive Mutation where
  | enableIAD
  | disableIAD
  | enableCA
  | disableCA
  | selectInput (b : Bool)
  deriving DecidableEq, Repr

/-- A position of the sequencer (R48): what one CTRL step does there. SEQ is the list of the remaining positions. -/
inductive Micro where
  /-- BUS_STATE becomes Reset, and LineLow (R164). -/
  | resetLow
  /-- BUS_STATE becomes BitSlot, and LineLow (R165, R166). -/
  | slotLow
  /-- LineRelease (R161). -/
  | release
  /-- LineRelease of a bus reset, from which BUS_STATE is Presence (R164, R169, log 12). -/
  | resetRelease
  /-- LineRelease at the end of the low time of a write slot; LINE has seen the slot of bit `b` (R165, R121). -/
  | releaseBit (b : Bool)
  /-- Wait (R162). -/
  | wait (t : TimeParam)
  /-- The write of Presence to BUS_STATE, and Wait(T_MSP) (R164, log 12). -/
  | waitPresence
  /-- Sample in the presence window (R164). -/
  | samplePresence
  /-- Sample in a read slot (R166). -/
  | sampleBit
  /-- PRESENT becomes the outcome of the reset; with a code, a reset that finds no device raises it (R164, R170). -/
  | latchPresence (onNoDevice : Option ResultCode)
  /-- The first primitive of the next write slot of the byte in the shift register (R167). -/
  | writeSlot
  /-- The first primitive of the next read slot of a byte (R168). -/
  | readSlot
  /-- r becomes (r >> 1) with v at the top (R168). -/
  | shiftIn
  /-- A byte to write is put into the shift register (R167). -/
  | loadByte (x : Byte)
  /-- A 1-Wire command byte is fetched: the WIRE8 instruction it encodes sends it (R136 to R143, log 14). -/
  | command (x : Byte)
  /-- r becomes 0x00 (R168). -/
  | clearByte
  /-- The byte counter becomes 0 (R201, R202). -/
  | firstByte
  /-- DATA[k] is put into the shift register (R202). -/
  | loadData
  /-- The next turn of the loop that writes the page bytes (R202). -/
  | nextData
  /-- DATA[k] becomes the received byte, and the next turn of the loop that reads the page bytes (R201). -/
  | storeData
  /-- RXDATA becomes the received byte (R177). -/
  | storeRxByte
  /-- RXDATA becomes the received bit (R175). -/
  | storeRxBit
  /-- DATA[0] becomes f(DATA[0]) (R270). -/
  | mask (m : Mutation)
  /-- READY becomes the test of a busy bit (R295). -/
  | testReady (k : BusyBit)
  /-- The poll's test: leave the loop with READY = 1, or read page 0 again (R298). -/
  | pollReady (k : BusyBit)
  /-- TEMP is written (R239, R300). -/
  | decodeTemp
  /-- VOLT is written (R240, R299). -/
  | decodeVolt
  /-- CURR is written (R241, R243). -/
  | decodeCurr
  /-- CAP is written (R242, R244). -/
  | decodeCap
  /-- Finish (R9). -/
  | finish (c : ResultCode)
  deriving DecidableEq, Repr

/-- What a HOST access asks for (R80). -/
inductive HostOp where
  | read
  | write (v : Word)
  deriving DecidableEq, Repr

/-- An access on the host port: what it asks, its width in bytes, and its offset in the 0x80-byte window (R53, R80). -/
structure HostAccess where
  op : HostOp
  bytes : Nat
  offset : BitVec 7
  deriving DecidableEq, Repr

/-- What the host port answered (R53): nothing yet, the data of a read, done for a write, or the error response
HOST_ACCESS_FAULT (R325). -/
inductive HostResponse where
  | none
  | data (v : Word)
  | done
  | accessFault
  deriving DecidableEq, Repr

/-- One transition of the world outside: an access at the port, an access the host makes at an absolute address, or a
level of `rst_n` (R53, R80, R360). -/
inductive Input where
  | port (a : HostAccess)
  | bus (addr bytes : Nat) (op : HostOp)
  | resetPin (level : Bool)
  deriving DecidableEq, Repr

/-- Memory as (address, byte) pairs, in the canonical form of Machine/Memory.lean. It holds the pages of the reference
device: byte k of page n is at address 9 * n + k (R90). -/
abbrev Memory := List Host.Cell

/-- The mode of the reference device (R110). -/
inductive DevMode where
  | idle
  | awaitRom
  | awaitFunc
  | awaitPage (f : Byte)
  | rxData (n k : Nat)
  | txData (n k : Nat)
  deriving DecidableEq, Repr

/-- The reference device (R110 to R122). A natural number of polls is `some k`; `none` stands for infinity (R119). -/
structure RefDevice where
  present : Bool
  mem : Memory
  sp : Memory
  mode : DevMode
  /-- the byte being assembled from written bits (R112) -/
  rxByte : Byte
  /-- how many of its bits have been written -/
  rxBits : Nat
  /-- how many bits of the byte being sent have been read (R114) -/
  txBits : Nat
  vleft : Option Nat
  tleft : Option Nat
  kV : Option Nat
  kT : Option Nat
  /-- V_RESULT, page 0 bytes 3 and 4 -/
  vResult : Byte × Byte
  /-- T_RESULT, page 0 bytes 1 and 2 -/
  tResult : Byte × Byte
  deriving DecidableEq, Repr

/-- A configuration of the reference device, `DEV{present, mem, K_V, K_T, V_RESULT, T_RESULT}` (R122); `none` stands for
infinity (R119). -/
structure DeviceConfig where
  present : Bool
  mem : Memory
  kV : Option Nat
  kT : Option Nat
  /-- V_RESULT, page 0 bytes 3 and 4 -/
  vResult : Byte × Byte
  /-- T_RESULT, page 0 bytes 1 and 2 -/
  tResult : Byte × Byte
  deriving DecidableEq, Repr

/-- Which LINE answers `Sample()`: the free one of the normative model (R163), or the reference device. -/
inductive Line where
  | free
  | reference
  deriving DecidableEq, Repr

/-- The whole state: the registers and hidden state of 10_state.md, then the ports' and the environment's data that the
model itself needs (INVENTORY.md, State). -/
structure State where
  /-- `rst_n` (R53): false while the platform holds the block in reset. -/
  rstN : Bool
  /-- CMD[15:0] (R31); CMD[31:16] reads 0. -/
  cmd : CmdWord
  /-- STATUS.BUSY (R32). -/
  busy : Bool
  /-- STATUS.DONE (R33). -/
  done : Bool
  /-- STATUS.RESULT (R34). -/
  result : ResultCode
  /-- STATUS.PRESENT (R35). -/
  present : Bool
  /-- STATUS.READY (R36). -/
  ready : Bool
  /-- STATUS.OVR (R37). -/
  ovr : Bool
  /-- STATUS.BUS_STATE (R38). -/
  busState : BusState
  /-- CTRL.IE (R40). -/
  ie : Bool
  /-- RXDATA[7:0] (R41). -/
  rxdata : Byte
  /-- DATA0 to DATA8, bits 7:0 (R42). -/
  data : Page
  /-- TEMP (R43). -/
  temp : Word
  /-- VOLT[9:0] (R44). -/
  volt : BitVec 10
  /-- CURR (R45). -/
  curr : Word
  /-- CAP[7:0] (R46). -/
  cap : Byte
  /-- OPL, the latched OP (R48). -/
  opl : Byte
  /-- ARGL, the latched ARG (R48). -/
  argl : Byte
  /-- SEQ, the remaining positions of the running operation; none is the empty list (R48). -/
  seq : List Micro
  /-- LINE_DRIVE, the `ow_oe` port (R49). -/
  lineDrive : Bool
  /-- The 3-bit slot counter (R50). -/
  slot : BitVec 3
  /-- The 8-bit shift register (R50). -/
  shift : Byte
  /-- The 4-bit byte counter (R50). -/
  byteCnt : BitVec 4
  /-- The local `v` of OW_Reset and OW_ReadBit, part of SEQ's continuation (R48, R164, R166). -/
  vbit : Bool
  /-- The host port's last answer (R53). -/
  resp : HostResponse
  /-- The model's own: what the outside does next, each with the number of CTRL steps that follow it before the next
  (R96, log 1). -/
  inputs : List (Input × Nat)
  /-- The model's own: the CTRL steps still to happen before the next input (log 1). -/
  gap : Nat
  /-- The LINE at the pin (R5). -/
  line : Line
  /-- The model's own: the levels the free LINE gives next (R163, log 3). -/
  samples : List Bool
  /-- The model's own: how many samples have been drawn (log 3). -/
  draws : Nat
  /-- The model's own: counts transitions, so that unspecified values may differ from one to the next (log 7). -/
  epoch : Nat
  /-- The reference device (R110); untouched while the free LINE stands at the pin. -/
  dev : RefDevice
  /-- The model's own: the PHY events so far (R10), newest first. -/
  trace : List Event
  deriving DecidableEq, Repr

/-- Why the machine stops. -/
inductive Fault where
  /-- Raised by `step` for a host access at an address outside the window: it is not the OWC's, and the platform
  decides what it does (R80). Safe: no OWC state follows from it (log 9). -/
  | outsideWindow (addr : Nat)
  deriving DecidableEq, Repr

/-- Why an instruction has no meaning in the model. -/
inductive Refusal where
  /-- Raised by an arm of `exec` whose instruction has no meaning yet; no arm does so. Safe: nothing follows. -/
  | notModelled (mnemonic : String)
  deriving DecidableEq, Repr

/-- The reference device as `State.reset` holds it: the start of R122 of an absent device with empty pages (log 22);
`RefDevice.start` in Machine/Line.lean gives the start of every configuration. -/
def RefDevice.blank : RefDevice where
  present := false
  mem := []
  sp := []
  mode := .idle
  rxByte := 0
  rxBits := 0
  txBits := 0
  vleft := some 0
  tleft := some 0
  kV := some 0
  kT := some 0
  vResult := (0, 0)
  tResult := (0, 0)

/-- The machine right after reset (R55, R361): `rst_n` has returned to 1, every host register is 0, SEQ is none, the
line is released. The counters of R50 and the model's own fields have the values of log 13 and log 22. -/
def State.reset : State where
  rstN := true
  cmd := 0
  busy := false
  done := false
  result := .ok
  present := false
  ready := false
  ovr := false
  busState := .idle
  ie := false
  rxdata := 0
  data := Vector.replicate 9 0
  temp := 0
  volt := 0
  curr := 0
  cap := 0
  opl := 0
  argl := 0
  seq := []
  lineDrive := false
  slot := 0
  shift := 0
  byteCnt := 0
  vbit := false
  resp := .none
  inputs := []
  gap := 0
  line := .free
  samples := []
  draws := 0
  epoch := 0
  dev := RefDevice.blank
  trace := []

end Sys2Proof.Machine
end

