-- ==== Sys2Proof/Machine/Operands.lean ====
section
/-! DEFINITION. The operand forms: the readings of ARG (30_encoding.md R132), the page buffer as an operand
(10_state.md R42), the mask of a mutator (43_config.md) and the registers an operation lists as outputs (R338). -/

namespace Sys2Proof.Machine

/-- ARG as a bit, `ARGL[0]`; `ARGL[7:1]` is ignored (R132). -/
def argBit (arg : Byte) : Bool := arg.getLsbD 0

/-- The page number check (R200): pages 0 to 7 are legal. -/
def pageInRange (n : Byte) : Bool := decide (n.toNat < Config.nPages)

/-- `DATA[k]` (R42). -/
def dataByte (p : Page) (k : Nat) : Byte := p.toList.getD k 0

/-- `DATA[k] <- v` (R42). -/
def setDataByte (p : Page) (k : Nat) (v : Byte) : Page := p.setIfInBounds k v

/-- The mask function of each mutator (R272 to R276). -/
def maskByte : Mutation → Byte → Byte
  | .enableIAD, x => x ||| 0x01
  | .disableIAD, x => x &&& 0xFE
  | .enableCA, x => x ||| 0x02
  | .disableCA, x => x &&& 0xFD
  | .selectInput b, x => if b then x ||| 0x08 else x &&& 0xF7

/-- The bit number of a busy bit (R292). -/
def busyBitIndex : BusyBit → Nat
  | .voltage => 6
  | .temperature => 4

/-- The registers an operation lists as outputs, of those R338 names. -/
structure Outputs where
  data : Bool := false
  rxdata : Bool := false
  temp : Bool := false
  volt : Bool := false
  curr : Bool := false
  cap : Bool := false
  ready : Bool := false
  deriving DecidableEq, Repr

/-- The output lists of the operations by OP: RXDATA (R175, R177); DATA (R206, R272 to R276); DATA and READY
(R296, R297); with VOLT or TEMP (R299, R300); DATA and CURR or CAP (R243, R244); the decode commands' registers
(R239 to R242). Every other OP has none (R173, R174, R176, R207, R293, R294, R324). -/
def outputsOf (op : Byte) : Outputs :=
  if op = 0x03 ∨ op = 0x05 then { rxdata := true }
  else if op = 0x10 then { data := true }
  else if op = 0x22 ∨ op = 0x23 then { data := true, ready := true }
  else if op = 0x24 then { data := true, volt := true, ready := true }
  else if op = 0x25 then { data := true, temp := true, ready := true }
  else if op = 0x26 then { data := true, curr := true }
  else if op = 0x27 then { data := true, cap := true }
  else if op = 0x30 ∨ op = 0x31 ∨ op = 0x32 ∨ op = 0x33 ∨ op = 0x34 then { data := true }
  else if op = 0x40 then { temp := true }
  else if op = 0x41 then { volt := true }
  else if op = 0x42 then { curr := true }
  else if op = 0x43 then { cap := true }
  else {}

end Sys2Proof.Machine
end

