-- ==== Sys2Proof/Machine/Flags.lean ====
section
/-! DEFINITION. The status flags (10_state.md R32 to R39, R52): their codes, the STATUS word, what a host write clears, the
tests that set PRESENT and READY, and the interrupt line. -/

namespace Sys2Proof.Machine

/-- The code of BUS_STATE in STATUS[10:8] (R38). -/
def busStateCode : BusState → BitVec 3
  | .idle => 0
  | .reset => 1
  | .presence => 2
  | .bitSlot => 3

/-- The code of RESULT in STATUS[4:2] (R34, R320). -/
def resultBits : ResultCode → BitVec 3
  | .ok => 0
  | .deviceNotFound => 1
  | .badParameter => 2
  | .operationError => 3
  | .illegalCommand => 4

/-- A flag as one bit. -/
def flagBit (b : Bool) : BitVec 1 := BitVec.ofBool b

/-- The STATUS word (R32 to R39): bits [31:11] 0, BUS_STATE, OVR, READY, PRESENT, RESULT, DONE, BUSY. -/
def statusWord (s : State) : Word :=
  (0 : BitVec 21) ++ busStateCode s.busState ++ flagBit s.ovr ++ flagBit s.ready ++ flagBit s.present
    ++ resultBits s.result ++ flagBit s.done ++ flagBit s.busy

/-- DONE after a host write `v` to STATUS: cleared by bit 1 (R33). -/
def doneAfterWrite (v : Word) (done : Bool) : Bool := done && !v.getLsbD 1

/-- OVR after a host write `v` to STATUS: cleared by bit 7 (R37). -/
def ovrAfterWrite (v : Word) (ovr : Bool) : Bool := ovr && !v.getLsbD 7

/-- PRESENT from the presence sample: 1 when it read 0 (R35, R164). -/
def presentOfSample (v : Bool) : Bool := !v

/-- READY from page 0 byte 0: 1 when the tested busy bit is 0 (R36, R292, R295). -/
def readyOfByte (k : BusyBit) (b : Byte) : Bool := !b.getLsbD (busyBitIndex k)

/-- The `irq` port: `CTRL.IE & STATUS.DONE`, a level (R331). -/
def irq (s : State) : Bool := s.ie && s.done

/-- The `ow_oe` port (R49, R53). -/
def owOe (s : State) : Bool := s.lineDrive

end Sys2Proof.Machine
end

