-- ==== Sys2Proof/Machine/Memory.lean ====
section
/-! DEFINITION. Memory as a canonical list of (address, byte) pairs: addresses strictly rising, and no entry equal to what
an unlisted address reads as. It holds the page memory and the scratchpads of the reference device (20_memory.md R110),
with byte k of page n at address 9 * n + k. -/

namespace Sys2Proof.Machine

/-- What an unlisted address reads as: 0x00, the convention of 95_test_vectors.md for unlisted pages (log 5). -/
def Memory.unlisted : Byte := 0

/-- The byte at an address. -/
def Memory.read : Memory → Nat → Byte
  | [], _ => Memory.unlisted
  | (b, x) :: rest, a => if b = a then x else Memory.read rest a

/-- Storing a byte; storing what an unlisted address reads as removes the entry. -/
def Memory.write : Memory → Nat → Byte → Memory
  | [], a, v => if v = Memory.unlisted then [] else [(a, v)]
  | (b, x) :: rest, a, v =>
    if a < b then (if v = Memory.unlisted then (b, x) :: rest else (a, v) :: (b, x) :: rest)
    else if a = b then (if v = Memory.unlisted then rest else (a, v) :: rest)
    else (b, x) :: Memory.write rest a v

/-- The canonical form, for addresses from `lo` on. -/
def Memory.wfFrom : Nat → Memory → Bool
  | _, [] => true
  | lo, (a, v) :: rest => decide (lo ≤ a) && decide (v ≠ Memory.unlisted) && Memory.wfFrom (a + 1) rest

/-- The canonical form. -/
def Memory.wf (m : Memory) : Bool := Memory.wfFrom 0 m

/-- The address of byte `k` of page `n` (R90). -/
def pageAddr (n k : Nat) : Nat := Config.pageBytes * n + k

/-- Byte `k` of page `n`. -/
def Memory.pageByte (m : Memory) (n k : Nat) : Byte := m.read (pageAddr n k)

/-- Storing byte `k` of page `n`. -/
def Memory.setPageByte (m : Memory) (n k : Nat) (v : Byte) : Memory := m.write (pageAddr n k) v

/-- `dst[n] <- src[n]`, the bytes `0 .. count - 1` (R113, R116). -/
def Memory.copyPage (dst src : Memory) (n : Nat) : Nat → Memory
  | 0 => dst
  | k + 1 => (Memory.copyPage dst src n k).setPageByte n k (src.pageByte n k)

/-- Page `n` with the bytes of a page stored in it, from byte `k` on. -/
def Memory.setBytes (m : Memory) (n : Nat) : Nat → List Byte → Memory
  | _, [] => m
  | k, b :: bs => Memory.setBytes (m.setPageByte n k b) n (k + 1) bs

/-- The pages of a device configuration (R122): each listed page at its number, unlisted pages all 0x00. -/
def Memory.ofPages : List (Nat × Page) → Memory
  | [] => []
  | (n, p) :: rest => (Memory.ofPages rest).setBytes n 0 p.toList

end Sys2Proof.Machine
end

