-- ==== Sys2Proof/Machine/Line.lean ====
section
/-! DEFINITION. The LINE (00_scope.md R5): the free LINE of the normative model, whose samples are free draws (R163), and
the reference device of 20_memory.md R110 to R122, which answers deterministically. -/

namespace Sys2Proof.Machine

/-- The start of a device configuration (R122): `sp` equal to `mem`, mode Idle, `vleft` and `tleft` 0. -/
def RefDevice.start (c : DeviceConfig) : RefDevice where
  present := c.present
  mem := c.mem
  sp := c.mem
  mode := .idle
  rxByte := 0
  rxBits := 0
  txBits := 0
  vleft := some 0
  tleft := some 0
  kV := c.kV
  kT := c.kT
  vResult := c.vResult
  tResult := c.tResult

/-- The reference device of a configuration stands at the pin, in its start (R110, R122). -/
def State.withDevice (s : State) (c : DeviceConfig) : State := { s with line := .reference, dev := RefDevice.start c }

/-- The bus reset as the device sees it (R111): it awaits a ROM command. DESIGN CHOICE: the bits of a byte only partly written
are discarded, so the next written bit starts a byte; R111 and R112 do not say (log 26). -/
def RefDevice.busReset (d : RefDevice) : RefDevice :=
  { d with mode := .awaitRom, rxByte := 0, rxBits := 0, txBits := 0 }

/-- One half of the conversion update (R119): while busy, count down, and at 0 clear the busy bit and store the two
result bytes. `none` stands for infinity, a conversion that never ends. -/
def convUpdate (busyBit : Nat) (lo : Nat) (res : Byte × Byte) (left : Option Nat) (m : Memory) : Memory × Option Nat :=
  if (m.pageByte 0 0).getLsbD busyBit then
    match left with
    | none => (m, none)
    | some 0 =>
      let cleared := m.setPageByte 0 0 (m.pageByte 0 0 &&& ~~~(BitVec.twoPow 8 busyBit))
      ((cleared.setPageByte 0 lo res.1).setPageByte 0 (lo + 1) res.2, some 0)
    | some (k + 1) => (m, some k)
  else (m, left)

/-- The conversion update (R119): the voltage half, then the temperature half. -/
def RefDevice.updateConversions (d : RefDevice) : RefDevice :=
  let v := convUpdate 6 3 d.vResult d.vleft d.mem
  let t := convUpdate 4 1 d.tResult d.tleft v.1
  { d with mem := t.1, vleft := v.2, tleft := t.2 }

/-- Recall memory (R113): for page 0 the conversion update first. -/
def RefDevice.recall (d : RefDevice) (n : Nat) : RefDevice :=
  let d' := if n = 0 then d.updateConversions else d
  { d' with sp := Memory.copyPage d'.sp d'.mem n Config.pageBytes, mode := .idle }

/-- Copy scratchpad (R116). -/
def RefDevice.copy (d : RefDevice) (n : Nat) : RefDevice :=
  { d with mem := Memory.copyPage d.mem d.sp n Config.pageBytes, mode := .idle }

/-- Starting a voltage conversion (R117). -/
def RefDevice.startVoltage (d : RefDevice) : RefDevice :=
  { d with mem := d.mem.setPageByte 0 0 (d.mem.pageByte 0 0 ||| 0x40), vleft := d.kV, mode := .idle }

/-- Starting a temperature conversion (R118). -/
def RefDevice.startTemperature (d : RefDevice) : RefDevice :=
  { d with mem := d.mem.setPageByte 0 0 (d.mem.pageByte 0 0 ||| 0x10), tleft := d.kT, mode := .idle }

/-- The page byte after a function command (R113 to R116); a page number above 7 ends the transaction (R112). -/
def RefDevice.receivePage (d : RefDevice) (f : Byte) (n : Nat) : RefDevice :=
  if 7 < n then { d with mode := .idle }
  else if f = 0xB8 then d.recall n
  else if f = 0xBE then { d with mode := .txData n 0, txBits := 0 }
  else if f = 0x4E then { d with mode := .rxData n 0 }
  else if f = 0x48 then d.copy n
  else { d with mode := .idle }

/-- A complete received byte (R112, R115). -/
def RefDevice.receiveByte (d : RefDevice) (b : Byte) : RefDevice :=
  match d.mode with
  | .idle => d
  | .awaitRom => { d with mode := if b = 0xCC then .awaitFunc else .idle }
  | .awaitFunc =>
    if b = 0xB8 ∨ b = 0xBE ∨ b = 0x4E ∨ b = 0x48 then { d with mode := .awaitPage b }
    else if b = 0xB4 then d.startVoltage
    else if b = 0x44 then d.startTemperature
    else { d with mode := .idle }
  | .awaitPage f => d.receivePage f b.toNat
  | .rxData n k =>
    { d with sp := d.sp.setPageByte n k b, mode := if k + 1 < Config.pageBytes then .rxData n (k + 1) else .idle }
  | .txData _ _ => d

/-- A written bit (R112): the first of a byte goes into bit 0. A device that is not present ignores it (R111). -/
def RefDevice.writeBit (d : RefDevice) (b : Bool) : RefDevice :=
  if d.present then
    let byte := if b then d.rxByte ||| BitVec.twoPow 8 d.rxBits else d.rxByte
    if d.rxBits + 1 < 8 then { d with rxByte := byte, rxBits := d.rxBits + 1 }
    else { d with rxByte := 0, rxBits := 0 }.receiveByte byte
  else d

/-- The bit a read slot gets (R114): the next bit of `sp[n][k]`; 1 in every other mode and when absent (R111). -/
def RefDevice.readLevel (d : RefDevice) : Bool :=
  match d.mode with
  | .txData n k =>
    if d.present ∧ k < Config.pageBytes then (d.sp.pageByte n k).getLsbD d.txBits else true
  | _ => true

/-- The device after a read slot (R114). -/
def RefDevice.readSlot (d : RefDevice) : RefDevice :=
  match d.mode with
  | .txData n k =>
    if d.present ∧ k < Config.pageBytes then
      if d.txBits + 1 < 8 then { d with txBits := d.txBits + 1 }
      else { d with txBits := 0, mode := .txData n (k + 1) }
    else d
  | _ => d

/-- The level of the free LINE at its next sample: the next listed one, or a free value (R163). -/
def freeLevel (q : List Bool) (n : Nat) : Bool := q.headD (Config.lineLevel n)

/-- The level in the presence window (R111, R163): the reference device answers 0 when present. -/
def presenceLevelOf (l : Line) (q : List Bool) (n : Nat) (d : RefDevice) : Bool :=
  match l with
  | .free => freeLevel q n
  | .reference => !d.present

/-- The level in a read slot (R114, R163). -/
def slotLevelOf (l : Line) (q : List Bool) (n : Nat) (d : RefDevice) : Bool :=
  match l with
  | .free => freeLevel q n
  | .reference => d.readLevel

/-- The level `Sample()` returns in the presence window. -/
def State.presenceLevel (s : State) : Bool := presenceLevelOf s.line s.samples s.draws s.dev

/-- The level `Sample()` returns in a read slot. -/
def State.slotLevel (s : State) : Bool := slotLevelOf s.line s.samples s.draws s.dev

/-- The device after a bus reset: the free LINE leaves it alone. -/
def devAfterReset (l : Line) (d : RefDevice) : RefDevice :=
  match l with
  | .free => d
  | .reference => d.busReset

/-- The device after a read slot. -/
def devAfterRead (l : Line) (d : RefDevice) : RefDevice :=
  match l with
  | .free => d
  | .reference => d.readSlot

/-- The device after a write slot of bit `b` (R121). -/
def devAfterWrite (l : Line) (d : RefDevice) (b : Bool) : RefDevice :=
  match l with
  | .free => d
  | .reference => d.writeBit b

/-- The listed levels of the free LINE after one sample. -/
def samplesAfter (l : Line) (q : List Bool) : List Bool :=
  match l with
  | .free => q.tail
  | .reference => q

/-- The LINE after the presence sample of a bus reset. -/
def State.lineAfterReset (s : State) : State :=
  { s with samples := samplesAfter s.line s.samples, draws := s.draws + 1, dev := devAfterReset s.line s.dev }

/-- The LINE after the sample of a read slot. -/
def State.lineAfterRead (s : State) : State :=
  { s with samples := samplesAfter s.line s.samples, draws := s.draws + 1, dev := devAfterRead s.line s.dev }

/-- The LINE after a write slot of bit `b` (R121). -/
def State.lineAfterWrite (s : State) (b : Bool) : State := { s with dev := devAfterWrite s.line s.dev b }

end Sys2Proof.Machine
end

