-- ==== Sys2Proof/Machine/Measure.lean ====
section
/-! DEFINITION. The measurement decoder (42_decoder.md section 1): the counts as exact integers, the register values they
are stored as, and the physical values the host forms from them (R231 to R237). -/

namespace Sys2Proof.Machine

/-- `DecodeTemperature` (R230): 1/32 °C, the fraction applied with the sign of byte 2. -/
def decodeTemperature (b1 b2 : Byte) : Int :=
  let ip : Int := b2.toInt
  let fp : Int := (b1 >>> 3).toNat
  if b2.getLsbD 7 then 32 * ip - fp else 32 * ip + fp

/-- `DecodeVoltage` (R232): 10 mV, ten bits. -/
def decodeVoltage (b3 b4 : Byte) : Nat := ((b4 &&& 0x03).toNat <<< 8) ||| b3.toNat

/-- `DecodeCurrent` (R234): sign and magnitude; any of b6[7:2] makes it negative. -/
def decodeCurrent (b5 b6 : Byte) : Int :=
  let m : Int := (((b6 &&& 0x03).toNat <<< 8) ||| b5.toNat : Nat)
  if b6 &&& 0xFC ≠ 0 then -m else m

/-- `DecodeCapacity` (R236). -/
def decodeCapacity (b : Byte) : Nat := b.toNat

/-- TEMP: `sext_32` of the s16 count (R43). -/
def tempRegister (t : Int) : Word := sext32 (BitVec.ofInt 16 t)

/-- VOLT[9:0]: the 10-bit count (R44). -/
def voltRegister (c : Nat) : BitVec 10 := BitVec.ofNat 10 c

/-- CURR: `sext_32` of the s11 count (R45). -/
def currRegister (i : Int) : Word := sext32 (BitVec.ofInt 11 i)

/-- CAP[7:0]: the 8-bit count (R46). -/
def capRegister (c : Nat) : Byte := BitVec.ofNat 8 c

/-- Physical temperature in °C (R231), formed by the host. -/
def physicalTemperature (t : Int) : Rat := (t : Rat) / 32

/-- Physical voltage in V (R233), formed by the host. -/
def physicalVoltage (c : Nat) : Rat := (c : Rat) / 100

/-- Physical current in mA (R235), formed by the host with its RSENSE_OHMS. -/
def physicalCurrent (rsenseOhms : Rat) (i : Int) : Rat := (i : Rat) / ((4096 : Rat) / 1000 * rsenseOhms)

/-- Physical charge in mAh (R237), formed by the host with its RSENSE_OHMS. -/
def physicalCapacity (rsenseOhms : Rat) (c : Nat) : Rat := (c : Rat) / ((2048 : Rat) / 1000 * rsenseOhms)

end Sys2Proof.Machine
end

