-- ==== Sys2Proof/Machine/Ops.lean ====
section
/-! DEFINITION. The shared operations: the line primitives (40_transport.md R160 to R163), the sequences of SEQ positions
the procedures of 40_transport.md, 41_register_access.md and 44_conversion.md are, completion and its acknowledgement
(60_exceptions.md R329, R330), one CTRL step (10_state.md R48), and the acceptance of a command (30_encoding.md R148). -/

namespace Sys2Proof.Machine

/-- A trace event (R10). -/
def State.emit (s : State) (e : Event) : State := { s with trace := e :: s.trace }

/-- `LineLow()` with the BUS_STATE write of the same CTRL step (R160, R164, R165, R166). -/
def State.lineLow (s : State) (b : BusState) : State :=
  { s with busState := b, lineDrive := true, trace := .low :: s.trace }

/-- `LineRelease()` (R161). -/
def State.lineRelease (s : State) : State := { s with lineDrive := false, trace := .release :: s.trace }

/-- `Wait(t)` (R162): it changes no state; its trace event names the parameter (log 19). -/
def State.waitFor (s : State) (t : TimeParam) : State := s.emit (.wait t)

/-! The sequences of positions. -/

/-- `OW_Reset` (R164); `onNoDevice` is the code raised when it finds no device, if any (R170, R173). BUS_STATE is Presence
from the release on (R38, R169); the write R164 puts in the CTRL step of Wait(T_MSP) finds it so (log 12). -/
def resetOps (onNoDevice : Option ResultCode) : List Micro :=
  [.resetLow, .wait .tRSTL, .resetRelease, .waitPresence, .samplePresence, .wait .tRSTHRem, .latchPresence onNoDevice]

/-- `OW_WriteBit(b)` after its first primitive (R165). -/
def writeBitTail (b : Bool) : List Micro :=
  if b then [.wait .tW1L, .releaseBit b, .wait .tW1R] else [.wait .tW0L, .releaseBit b, .wait .tRec]

/-- `OW_WriteBit(b)` (R165). -/
def writeBitOps (b : Bool) : List Micro := .slotLow :: writeBitTail b

/-- `OW_ReadBit()` after its first primitive (R166). -/
def readBitTail : List Micro := [.wait .tRL, .release, .wait .tRDV, .sampleBit, .wait .tRRec]

/-- `OW_ReadBit()` (R166). -/
def readBitOps : List Micro := .slotLow :: readBitTail

/-- `OW_WriteByte(x)` (R167). -/
def writeByteOps (x : Byte) : List Micro := [.loadByte x, .writeSlot]

/-- `OW_ReadByte()` (R168). -/
def readByteOps : List Micro := [.clearByte, .readSlot]

/-- A 1-Wire handshake up to the page byte: reset, SkipROM, a function command, `byte(n)` (R136, R145). -/
def handshakeOps (onNoDevice : ResultCode) (command : Byte) (n : Byte) : List Micro :=
  resetOps (some onNoDevice) ++ [.command 0xCC, .command command] ++ writeByteOps n

/-- `ReadPage(n)` for a legal page (R201): recall, then read nine bytes into DATA. -/
def readPageOps (onNoDevice : ResultCode) (n : Byte) : List Micro :=
  handshakeOps onNoDevice 0xB8 n ++ handshakeOps onNoDevice 0xBE n ++ .firstByte :: (readByteOps ++ [.storeData])

/-- `WritePage(n, DATA)` for a legal page (R202): write the nine bytes of DATA, then copy. -/
def writePageOps (onNoDevice : ResultCode) (n : Byte) : List Micro :=
  handshakeOps onNoDevice 0x4E n ++ [.firstByte, .loadData, .writeSlot, .nextData] ++ handshakeOps onNoDevice 0x48 n

/-- `StartConversion(cmd)` (R291). -/
def startConversionOps (command : Byte) : List Micro :=
  resetOps (some .deviceNotFound) ++ [.command 0xCC, .command command]

/-- `ConvertAndPoll(cmd, k)` (R298): the start, the first poll, and the test that leaves the loop or polls again. -/
def convertAndPollOps (command : Byte) (k : BusyBit) : List Micro :=
  startConversionOps command ++ readPageOps .deviceNotFound 0 ++ [.pollReady k]

/-- `ConfigRMW(f)` (R270, R271): a failed read phase is DEVICE_NOT_FOUND, a failed write phase OPERATION_ERROR. -/
def configOps (m : Mutation) : List Micro :=
  readPageOps .deviceNotFound 0 ++ .mask m :: writePageOps .operationError 0

/-! Completion, the analogue of taking an exception, and its acknowledgement, the analogue of the return. -/

/-- The output registers of the operation in OPL become unspecified (R338): each a free value whose reserved bits
are 0 (log 6). -/
def State.scrambleOutputs (s : State) : State :=
  let o := outputsOf s.opl
  let free := Config.failedOutput s.epoch
  { s with
    data := if o.data then Vector.ofFn (fun k : Fin 9 => (free (0x10 + 4 * k.val)).setWidth 8) else s.data
    rxdata := if o.rxdata then (free 0x0C).setWidth 8 else s.rxdata
    temp := if o.temp then free 0x40 else s.temp
    volt := if o.volt then (free 0x44).setWidth 10 else s.volt
    curr := if o.curr then free 0x48 else s.curr
    cap := if o.cap then (free 0x4C).setWidth 8 else s.cap
    ready := if o.ready then Config.failedReady s.epoch else s.ready }

/-- `Finish(code)` (R9, R329): RESULT, BUS_STATE Idle, BUSY 0, DONE 1, SEQ none, the line released. With a code other
than OK the operation's outputs are left unspecified (R338). -/
def finish (c : ResultCode) (s : State) : State :=
  let t := if c = .ok then s else s.scrambleOutputs
  { t with result := c, busState := .idle, busy := false, done := true, seq := [], lineDrive := false }

/-- The host's acknowledgement of a completion (R330): a write `v` to STATUS clears DONE by bit 1 and OVR by bit 7
(R33, R37, R39). Nothing is restored. -/
def acknowledge (v : Word) (s : State) : State :=
  { s with done := doneAfterWrite v s.done, ovr := ovrAfterWrite v s.ovr }

/-! What each position does. `s.seq` holds the positions after it. -/

/-- PRESENT is the outcome of the reset; a reset that finds no device raises the code, if the caller has one: nothing
but the completion runs after it (R164, R170). -/
def latchPresence (onNoDevice : Option ResultCode) (s : State) : State :=
  let found := presentOfSample s.vbit
  { s with
    present := found
    seq :=
      match onNoDevice with
      | none => s.seq
      | some c => if found then s.seq else [.finish c] }

/-- The presence sample (R163, R164). -/
def samplePresence (s : State) : State :=
  let v := s.presenceLevel
  { s.lineAfterReset with vbit := v, trace := .sample v :: s.trace }

/-- The sample of a read slot (R163, R166). -/
def sampleBit (s : State) : State :=
  let v := s.slotLevel
  { s.lineAfterRead with vbit := v, trace := .sample v :: s.trace }

/-- The release of a write slot of bit `b` (R165), which the LINE has then seen (R121). -/
def releaseBit (b : Bool) (s : State) : State := s.lineRelease.lineAfterWrite b

/-- One turn of `for i in 0..7: OW_WriteBit(x[i])` (R167), at the first primitive of the slot: bit `slot` of the shift
register, least significant first (R95). Before the first slot of a byte CTRL takes the step that puts the byte in the
shift register, where R381 has none between slots: DEDUCED (log 10). -/
def writeSlot (s : State) : State :=
  { s.lineLow .bitSlot with
    slot := s.slot + 1
    seq := writeBitTail (s.shift.getLsbD s.slot.toNat) ++ (if s.slot = 7 then s.seq else .writeSlot :: s.seq) }

/-- One turn of the read loop of `OW_ReadByte` (R168), at the first primitive of the slot. DEDUCED (log 10): `shiftIn` is a
CTRL step of its own after the slot (R5), where R381 has no step between two slots. -/
def readSlot (s : State) : State :=
  { s.lineLow .bitSlot with
    slot := s.slot + 1
    seq := readBitTail ++ .shiftIn :: (if s.slot = 7 then s.seq else .readSlot :: s.seq) }

/-- `r <- (r >> 1) | (v << 7)` (R168). -/
def shiftIn (s : State) : State :=
  { s with shift := (s.shift >>> 1) ||| (if s.vbit then 0x80 else 0x00) }

/-- A byte to be written enters the shift register, and its first slot is slot 0 (R167). -/
def loadByte (x : Byte) (s : State) : State := { s with shift := x, slot := 0 }

/-- A command byte is sent (R137 to R143): `OW_WriteByte(x)`, then what follows in SEQ. -/
def startCommand (x : Byte) (s : State) : State := { loadByte x s with seq := .writeSlot :: s.seq }

/-- The next turn of the loop over the nine bytes to write (R202). -/
def nextData (s : State) : State :=
  if s.byteCnt.toNat < 8 then
    { s with byteCnt := s.byteCnt + 1, seq := .loadData :: .writeSlot :: .nextData :: s.seq }
  else s

/-- `DATA[k] <- OW_ReadByte()`, and the next turn of the loop (R201). -/
def storeData (s : State) : State :=
  let t := { s with data := setDataByte s.data s.byteCnt.toNat s.shift }
  if s.byteCnt.toNat < 8 then
    { t with byteCnt := s.byteCnt + 1, seq := .clearByte :: .readSlot :: .storeData :: s.seq }
  else t

/-- The test that ends a poll (R298). -/
def pollReady (k : BusyBit) (s : State) : State :=
  if readyOfByte k (dataByte s.data 0) then { s with ready := true }
  else { s with seq := readPageOps .deviceNotFound 0 ++ .pollReady k :: s.seq }

/-- The work of one position. -/
def micro (m : Micro) (s : State) : State :=
  match m with
  | .resetLow => s.lineLow .reset
  | .slotLow => s.lineLow .bitSlot
  | .release => s.lineRelease
  | .resetRelease => { s.lineRelease with busState := .presence }
  | .releaseBit b => releaseBit b s
  | .wait t => s.waitFor t
  | .waitPresence => { s with busState := .presence }.waitFor .tMSP
  | .samplePresence => samplePresence s
  | .sampleBit => sampleBit s
  | .latchPresence c => latchPresence c s
  | .writeSlot => writeSlot s
  | .readSlot => readSlot s
  | .shiftIn => shiftIn s
  | .loadByte x => loadByte x s
  | .command x => startCommand x s
  | .clearByte => loadByte 0 s
  | .firstByte => { s with byteCnt := 0 }
  | .loadData => loadByte (dataByte s.data s.byteCnt.toNat) s
  | .nextData => nextData s
  | .storeData => storeData s
  | .storeRxByte => { s with rxdata := s.shift }
  | .storeRxBit => { s with rxdata := if s.vbit then 1 else 0 }
  | .mask f => { s with data := setDataByte s.data 0 (maskByte f (dataByte s.data 0)) }
  | .testReady k => { s with ready := readyOfByte k (dataByte s.data 0) }
  | .pollReady k => pollReady k s
  | .decodeTemp => { s with temp := tempRegister (decodeTemperature (dataByte s.data 1) (dataByte s.data 2)) }
  | .decodeVolt => { s with volt := voltRegister (decodeVoltage (dataByte s.data 3) (dataByte s.data 4)) }
  | .decodeCurr => { s with curr := currRegister (decodeCurrent (dataByte s.data 5) (dataByte s.data 6)) }
  | .decodeCap => { s with cap := capRegister (decodeCapacity (dataByte s.data 4)) }
  | .finish c => finish c s

/-- An operation is running and the block is not held in reset: CTRL has a step to do (R5, R360). -/
def State.running (s : State) : Bool := s.rstN && s.busy

/-- The head of SEQ is taken off, and the transition counted. -/
def State.pop (s : State) (rest : List Micro) : State := { s with seq := rest, epoch := s.epoch + 1 }

/-- One CTRL step (R48): the position at the head of SEQ. While the block is idle or held in reset CTRL does nothing
(R343, R360). -/
def ctrlStep (s : State) : State :=
  if s.running then
    match s.seq with
    | [] => s
    | m :: rest => micro m (s.pop rest)
  else s

/-- `n` CTRL steps. -/
def ctrlSteps : Nat → State → State
  | 0, s => s
  | n + 1, s => ctrlSteps n (ctrlStep s)

/-- The CTRL steps that happen before the next input (R96, log 1). -/
def settle (s : State) : State := { ctrlSteps s.gap s with gap := 0 }

/-! Commands. -/

/-- A command word is offered to the sequencer (R148): dropped with OVR while busy (R85, R326), ignored while the block
is held in reset (R360), and otherwise accepted, with the operation's positions in SEQ. -/
def offer (w : CmdWord) (ops : List Micro) (s : State) : State :=
  if s.rstN then
    if s.busy then { s with ovr := true, epoch := s.epoch + 1 }
    else
      { s with
        cmd := w
        opl := w.extractLsb' 8 8
        argl := w.extractLsb' 0 8
        done := false
        busy := true
        seq := ops
        epoch := s.epoch + 1 }
  else s

/-- A command: its offer, and the CTRL steps that happen before the next input. -/
def runCommand (w : CmdWord) (ops : List Micro) (s : State) : Host.Outcome State Fault Refusal :=
  .next (settle (offer w ops s))

/-- A command whose OP is unassigned (R134, R324): accepted, and `Finish(ILLEGAL_COMMAND)` is its first CTRL step. -/
def illegalCommand (w : CmdWord) (s : State) : Host.Outcome State Fault Refusal :=
  runCommand w [.finish .illegalCommand] s

/-- The positions of a raw bit or byte operation: with PRESENT = 0 it performs no bus activity (R172). -/
def gated (s : State) (ops : List Micro) : List Micro :=
  if s.present then ops else [.finish .deviceNotFound]

/-- The positions of an operation with a page operand: a page above 7 is rejected before any bus activity (R200). -/
def checkedPage (n : Byte) (ops : List Micro) : List Micro :=
  if pageInRange n then ops else [.finish .badParameter]

/-- A wire command byte sent by the running operation, and the CTRL steps that happen before the next input. Outside an
operation the OWC sends no byte (R49, R136, log 14). -/
def sendWireCommand (x : Byte) (s : State) : Host.Outcome State Fault Refusal :=
  .next (settle (if s.running then startCommand x s else s))

end Sys2Proof.Machine
end

