-- ==== Sys2Proof/Machine/ConfigMutators.lean ====
section
/-! DEFINITION. The configuration mutator family (43_config.md R272 to R276). -/

namespace Sys2Proof.Machine

/-- ENABLE_IAD (R272): sets bit 0 of page 0 byte 0. -/
def execEnableIAD (arg : Byte) (s : State) : Host.Outcome State Fault Refusal :=
  runCommand (cmdWord 0x30 arg) (configOps .enableIAD ++ [.finish .ok]) s

/-- DISABLE_IAD (R273): clears bit 0. -/
def execDisableIAD (arg : Byte) (s : State) : Host.Outcome State Fault Refusal :=
  runCommand (cmdWord 0x31 arg) (configOps .disableIAD ++ [.finish .ok]) s

/-- ENABLE_CA (R274): sets bit 1. -/
def execEnableCA (arg : Byte) (s : State) : Host.Outcome State Fault Refusal :=
  runCommand (cmdWord 0x32 arg) (configOps .enableCA ++ [.finish .ok]) s

/-- DISABLE_CA (R275): clears bit 1. -/
def execDisableCA (arg : Byte) (s : State) : Host.Outcome State Fault Refusal :=
  runCommand (cmdWord 0x33 arg) (configOps .disableCA ++ [.finish .ok]) s

/-- SELECT_INPUT (R276): bit 3 becomes `ARG[0]`. -/
def execSelectInput (arg : Byte) (s : State) : Host.Outcome State Fault Refusal :=
  runCommand (cmdWord 0x34 arg) (configOps (.selectInput (argBit arg)) ++ [.finish .ok]) s

end Sys2Proof.Machine
end

