-- ==== Sys2Proof/Machine/Conversion.lean ====
section
/-! DEFINITION. The conversion family (44_conversion.md R293 to R300). -/

namespace Sys2Proof.Machine

/-- START_VCONV (R293). -/
def execStartVConv (arg : Byte) (s : State) : Host.Outcome State Fault Refusal :=
  runCommand (cmdWord 0x20 arg) (startConversionOps 0xB4 ++ [.finish .ok]) s

/-- START_TCONV (R294). -/
def execStartTConv (arg : Byte) (s : State) : Host.Outcome State Fault Refusal :=
  runCommand (cmdWord 0x21 arg) (startConversionOps 0x44 ++ [.finish .ok]) s

/-- HAS_DATA_V (R296): `HasData(6)` (R295). -/
def execHasDataV (arg : Byte) (s : State) : Host.Outcome State Fault Refusal :=
  runCommand (cmdWord 0x22 arg) (readPageOps .deviceNotFound 0 ++ [.testReady .voltage, .finish .ok]) s

/-- HAS_DATA_T (R297): `HasData(4)` (R295). -/
def execHasDataT (arg : Byte) (s : State) : Host.Outcome State Fault Refusal :=
  runCommand (cmdWord 0x23 arg) (readPageOps .deviceNotFound 0 ++ [.testReady .temperature, .finish .ok]) s

/-- READ_VOLTAGE (R299): convert, poll without bound, decode the last image. -/
def execReadVoltage (arg : Byte) (s : State) : Host.Outcome State Fault Refusal :=
  runCommand (cmdWord 0x24 arg) (convertAndPollOps 0xB4 .voltage ++ [.decodeVolt, .finish .ok]) s

/-- READ_TEMPERATURE (R300): convert, poll without bound, decode the last image. -/
def execReadTemperature (arg : Byte) (s : State) : Host.Outcome State Fault Refusal :=
  runCommand (cmdWord 0x25 arg) (convertAndPollOps 0x44 .temperature ++ [.decodeTemp, .finish .ok]) s

end Sys2Proof.Machine
end

