-- ==== Sys2Proof/Machine/Decoder.lean ====
section
/-! DEFINITION. The measurement decoder family (42_decoder.md R239 to R244): decode commands on the page buffer, and the two
page reads that decode. -/

namespace Sys2Proof.Machine

/-- DECODE_TEMP (R239). -/
def execDecodeTemp (arg : Byte) (s : State) : Host.Outcome State Fault Refusal :=
  runCommand (cmdWord 0x40 arg) [.decodeTemp, .finish .ok] s

/-- DECODE_VOLT (R240). -/
def execDecodeVolt (arg : Byte) (s : State) : Host.Outcome State Fault Refusal :=
  runCommand (cmdWord 0x41 arg) [.decodeVolt, .finish .ok] s

/-- DECODE_CURR (R241). -/
def execDecodeCurr (arg : Byte) (s : State) : Host.Outcome State Fault Refusal :=
  runCommand (cmdWord 0x42 arg) [.decodeCurr, .finish .ok] s

/-- DECODE_CAP (R242). -/
def execDecodeCap (arg : Byte) (s : State) : Host.Outcome State Fault Refusal :=
  runCommand (cmdWord 0x43 arg) [.decodeCap, .finish .ok] s

/-- GET_CURRENT (R243): page 0, then the current; no conversion command. -/
def execGetCurrent (arg : Byte) (s : State) : Host.Outcome State Fault Refusal :=
  runCommand (cmdWord 0x26 arg) (readPageOps .deviceNotFound 0 ++ [.decodeCurr, .finish .ok]) s

/-- GET_CAPACITY (R244): page 1, then the charge; no conversion command. -/
def execGetCapacity (arg : Byte) (s : State) : Host.Outcome State Fault Refusal :=
  runCommand (cmdWord 0x27 arg) (readPageOps .deviceNotFound 1 ++ [.decodeCap, .finish .ok]) s

end Sys2Proof.Machine
end

