-- ==== Sys2Proof/Machine/PageAccess.lean ====
section
/-! DEFINITION. The page register access family (41_register_access.md R206, R207). -/

namespace Sys2Proof.Machine

/-- READ_PAGE (R206): `Finish(ReadPage(ARGL))`. -/
def execReadPage (arg : Byte) (s : State) : Host.Outcome State Fault Refusal :=
  runCommand (cmdWord 0x10 arg) (checkedPage arg (readPageOps .deviceNotFound arg ++ [.finish .ok])) s

/-- WRITE_PAGE (R207): `Finish(WritePage(ARGL, DATA))`. -/
def execWritePage (arg : Byte) (s : State) : Host.Outcome State Fault Refusal :=
  runCommand (cmdWord 0x11 arg) (checkedPage arg (writePageOps .deviceNotFound arg ++ [.finish .ok])) s

end Sys2Proof.Machine
end

