-- ==== Sys2Proof/Machine/Transport.lean ====
section
/-! DEFINITION. The PHY family (40_transport.md R173 to R177): bus reset, and raw bits and bytes. -/

namespace Sys2Proof.Machine

/-- BUS_RESET (R173): always OK; PRESENT reports the outcome. -/
def execBusReset (arg : Byte) (s : State) : Host.Outcome State Fault Refusal :=
  runCommand (cmdWord 0x01 arg) (resetOps none ++ [.finish .ok]) s

/-- WRITE_BIT (R174): one write slot of bit `ARG[0]`, if PRESENT = 1 (R172). -/
def execWriteBit (arg : Byte) (s : State) : Host.Outcome State Fault Refusal :=
  runCommand (cmdWord 0x02 arg) (gated s (writeBitOps (argBit arg) ++ [.finish .ok])) s

/-- READ_BIT (R175): one read slot, its bit into RXDATA, if PRESENT = 1 (R172). -/
def execReadBit (arg : Byte) (s : State) : Host.Outcome State Fault Refusal :=
  runCommand (cmdWord 0x03 arg) (gated s (readBitOps ++ [.storeRxBit, .finish .ok])) s

/-- WRITE_BYTE (R176): eight write slots of byte ARG, if PRESENT = 1 (R172). -/
def execWriteByte (arg : Byte) (s : State) : Host.Outcome State Fault Refusal :=
  runCommand (cmdWord 0x04 arg) (gated s (writeByteOps arg ++ [.finish .ok])) s

/-- READ_BYTE (R177): eight read slots, their byte into RXDATA, if PRESENT = 1 (R172). -/
def execReadByte (arg : Byte) (s : State) : Host.Outcome State Fault Refusal :=
  runCommand (cmdWord 0x05 arg) (gated s (readByteOps ++ [.storeRxByte, .finish .ok])) s

end Sys2Proof.Machine
end

