-- ==== Sys2Proof/Machine/WireCommands.lean ====
section
/-! DEFINITION. The wire commands (30_encoding.md R137 to R143): each is a byte the running operation sends on the line, least
significant bit first. -/

namespace Sys2Proof.Machine

/-- SkipROM (R137), the ROM command after every reset of a handshake. -/
def execSkipROM (s : State) : Host.Outcome State Fault Refusal :=
  sendWireCommand 0xCC s

/-- RecallMemory (R138), the first handshake of a page read. -/
def execRecallMemory (s : State) : Host.Outcome State Fault Refusal :=
  sendWireCommand 0xB8 s

/-- ReadScratchpad (R139), the second handshake of a page read. -/
def execReadScratchpad (s : State) : Host.Outcome State Fault Refusal :=
  sendWireCommand 0xBE s

/-- WriteScratchpad (R140), the first handshake of a page write. -/
def execWriteScratchpad (s : State) : Host.Outcome State Fault Refusal :=
  sendWireCommand 0x4E s

/-- CopyScratchpad (R141), the second handshake of a page write. -/
def execCopyScratchpad (s : State) : Host.Outcome State Fault Refusal :=
  sendWireCommand 0x48 s

/-- VoltageConvert (R142). -/
def execVoltageConvert (s : State) : Host.Outcome State Fault Refusal :=
  sendWireCommand 0xB4 s

/-- TempConvert (R143). -/
def execTempConvert (s : State) : Host.Outcome State Fault Refusal :=
  sendWireCommand 0x44 s

end Sys2Proof.Machine
end

