-- ==== Sys2Proof/Machine/Dispatch.lean ====
section
/-! DEFINITION. The dispatch: one arm per row of spec/opcode_table.json. -/

namespace Sys2Proof.Machine

def exec (i : Instr) (s : State) : Host.Outcome State Fault Refusal :=
  match i with
  | .busReset arg => Sys2Proof.Machine.execBusReset arg s
  | .writeBit arg => Sys2Proof.Machine.execWriteBit arg s
  | .readBit arg => Sys2Proof.Machine.execReadBit arg s
  | .writeByte arg => Sys2Proof.Machine.execWriteByte arg s
  | .readByte arg => Sys2Proof.Machine.execReadByte arg s
  | .readPage arg => Sys2Proof.Machine.execReadPage arg s
  | .writePage arg => Sys2Proof.Machine.execWritePage arg s
  | .startVConv arg => Sys2Proof.Machine.execStartVConv arg s
  | .startTConv arg => Sys2Proof.Machine.execStartTConv arg s
  | .hasDataV arg => Sys2Proof.Machine.execHasDataV arg s
  | .hasDataT arg => Sys2Proof.Machine.execHasDataT arg s
  | .readVoltage arg => Sys2Proof.Machine.execReadVoltage arg s
  | .readTemperature arg => Sys2Proof.Machine.execReadTemperature arg s
  | .getCurrent arg => Sys2Proof.Machine.execGetCurrent arg s
  | .getCapacity arg => Sys2Proof.Machine.execGetCapacity arg s
  | .enableIAD arg => Sys2Proof.Machine.execEnableIAD arg s
  | .disableIAD arg => Sys2Proof.Machine.execDisableIAD arg s
  | .enableCA arg => Sys2Proof.Machine.execEnableCA arg s
  | .disableCA arg => Sys2Proof.Machine.execDisableCA arg s
  | .selectInput arg => Sys2Proof.Machine.execSelectInput arg s
  | .decodeTemp arg => Sys2Proof.Machine.execDecodeTemp arg s
  | .decodeVolt arg => Sys2Proof.Machine.execDecodeVolt arg s
  | .decodeCurr arg => Sys2Proof.Machine.execDecodeCurr arg s
  | .decodeCap arg => Sys2Proof.Machine.execDecodeCap arg s
  | .skipROM => Sys2Proof.Machine.execSkipROM s
  | .recallMemory => Sys2Proof.Machine.execRecallMemory s
  | .readScratchpad => Sys2Proof.Machine.execReadScratchpad s
  | .writeScratchpad => Sys2Proof.Machine.execWriteScratchpad s
  | .copyScratchpad => Sys2Proof.Machine.execCopyScratchpad s
  | .voltageConvert => Sys2Proof.Machine.execVoltageConvert s
  | .tempConvert => Sys2Proof.Machine.execTempConvert s

end Sys2Proof.Machine
end

