-- ==== Sys2Proof/Machine/HostPort.lean ====
section
/-! DEFINITION. The host port: the register map (10_state.md R30 to R47), reads and writes (20_memory.md R80 to R86), and
the host-bus addresses of the window (R80). -/

namespace Sys2Proof.Machine

/-- A defined access: 32 bits at a multiple of 4 (R81). -/
def validAccess (a : HostAccess) : Bool := decide (a.bytes = 4) && decide (a.offset.toNat % 4 = 0)

/-- A register whose value is unspecified while BUSY = 1 (R86): a free value, cut to the register's bits, so that
its reserved bits are 0. -/
def readOutput {n : Nat} (s : State) (off : Nat) (v : BitVec n) : Word :=
  if s.busy then zext32 ((Config.busyRead s.epoch off).setWidth n) else zext32 v

/-- What a 32-bit read of the register at an offset returns (R30, R31 to R47, R86). Reserved offsets read 0. -/
def readRegister (s : State) (offset : BitVec 7) : Word :=
  let off := offset.toNat
  if off = 0x00 then zext32 s.cmd
  else if off = 0x04 then statusWord s
  else if off = 0x08 then zext32 (flagBit s.ie)
  else if off = 0x0C then readOutput s off s.rxdata
  else if 0x10 ≤ off ∧ off ≤ 0x30 then readOutput s off (dataByte s.data ((off - 0x10) / 4))
  else if off = 0x40 then readOutput s off s.temp
  else if off = 0x44 then readOutput s off s.volt
  else if off = 0x48 then readOutput s off s.curr
  else if off = 0x4C then readOutput s off s.cap
  else 0

/-- What a 32-bit write to a register other than CMD does (R84, R85): STATUS clears DONE and OVR, CTRL sets IE, DATAk
is written while BUSY = 0, every other write is ignored. -/
def writeRegister (s : State) (offset : BitVec 7) (v : Word) : State :=
  let off := offset.toNat
  if off = 0x04 then acknowledge v s
  else if off = 0x08 then { s with ie := v.getLsbD 0 }
  else if 0x10 ≤ off ∧ off ≤ 0x30 then
    if s.busy then s else { s with data := setDataByte s.data ((off - 0x10) / 4) (v.setWidth 8) }
  else s

/-- A write to a register other than CMD as one transition; it is ignored while the block is held in reset (R360). -/
def hostWrite (s : State) (offset : BitVec 7) (v : Word) : State :=
  if s.rstN then { writeRegister s offset v with epoch := s.epoch + 1 } else s

/-- The host port answers (R53). -/
def State.respond (s : State) (r : HostResponse) : State := { s with resp := r }

/-- The offset in the window of a host address, if it lies in the window (R80). -/
def windowOffset (base addr : Nat) : Option (BitVec 7) :=
  if base ≤ addr ∧ addr < base + Config.windowBytes then some (BitVec.ofNat 7 (addr - base)) else none

/-- The block reset (R360, R361): every piece of the OWC's state at its reset value. The ports, the LINE, the device
and the model's own fields are not the block's, and keep their values (log 15). -/
def blockReset (s : State) : State :=
  { State.reset with
    rstN := s.rstN
    resp := s.resp
    inputs := s.inputs
    gap := s.gap
    line := s.line
    samples := s.samples
    draws := s.draws
    epoch := s.epoch + 1
    dev := s.dev
    trace := s.trace }

/-- A level of `rst_n` (R360): low holds the block in reset, high lets it run on from there. -/
def setResetPin (level : Bool) (s : State) : State :=
  if level then { s with rstN := true } else blockReset { s with rstN := false }

/-- The next input is taken: the rest stay, and its number of CTRL steps is owed (log 1). -/
def State.takeInput (s : State) (rest : List (Input × Nat)) (n : Nat) : State := { s with inputs := rest, gap := n }

/-- An instruction's bits are placed where `step` fetches: a command word as the host's next CMD write (R148); a wire
byte as the position SEQ comes to next, in a running operation that finishes after it (log 2, log 14). -/
def placeWord (s : State) (nbits w : Nat) : State :=
  if nbits = 8 then
    { s with
      rstN := true
      busy := true
      inputs := []
      seq := [.command (BitVec.ofNat 8 w), .finish .ok] }
  else
    { s with inputs := (.port ⟨.write (BitVec.ofNat 32 w), 4, 0⟩, 0) :: s.inputs }

end Sys2Proof.Machine
end

