-- ==== Sys2Proof/Machine/Step.lean ====
section
/-! DEFINITION. One step of the machine: the next transition of the world outside followed by the CTRL steps that happen
before the next one, or, when nothing from outside is pending, a CTRL step (00_scope.md R5, 20_memory.md R96, log 1). -/

namespace Sys2Proof.Machine

/-- The instruction bits of `w` placed where `step` fetches its next instruction (Machine/HostPort.lean, log 2). -/
def State.withFetchWord (s : State) (nbits w : Nat) : State := placeWord s nbits w

/-- A write to CMD (R148): the word is decoded (R135) and the command run. -/
def commandWrite (w : CmdWord) (s : State) : Host.Outcome State Fault Refusal :=
  match decode w with
  | .instr i => exec i s
  | .illegal _ => illegalCommand w s

/-- A HOST access at the port (R53, R80 to R86, R325). -/
def portStep (a : HostAccess) (s : State) : Host.Outcome State Fault Refusal :=
  if validAccess a then
    match a.op with
    | .read => .next (settle (s.respond (.data (readRegister s a.offset))))
    | .write v =>
      if a.offset = 0 then commandWrite (v.setWidth 16) (s.respond .done)
      else .next (settle ((hostWrite s a.offset v).respond .done))
  else .next (settle (s.respond .accessFault))

/-- A transition of the world outside. -/
def inputStep (i : Input) (s : State) : Host.Outcome State Fault Refusal :=
  match i with
  | .port a => portStep a s
  | .bus addr bytes op =>
    match windowOffset Config.params.regBase addr with
    | some off => portStep ⟨op, bytes, off⟩ s
    | none => .fault (.outsideWindow addr)
  | .resetPin level => .next (settle (setResetPin level s))

/-- CTRL's turn (R48): at a command byte the wire instruction it encodes is fetched and run (R136 to R143); at any other
position, one CTRL step. -/
def ctrlTurn (s : State) : Host.Outcome State Fault Refusal :=
  match s.running, s.seq with
  | true, .command x :: rest =>
    match decodeWire x with
    | some i => exec i (s.pop rest)
    | none => .next (settle (ctrlStep s))
  | _, _ => .next (settle (ctrlStep s))

/-- One step. -/
def step (s : State) : Host.Outcome State Fault Refusal :=
  match s.inputs with
  | [] => ctrlTurn s
  | (i, n) :: rest => inputStep i (s.takeInput rest n)

end Sys2Proof.Machine
end

