-- ==== Sys2Proof/Machine/Frames.lean ====
section
/-! DEFINITION. The trace notation (00_scope.md R10) and the wire frames of the operations (30_encoding.md R144), as lists of
PHY events in the order they happen, and the times of 70_reset_and_hazards.md R381 and R382. The machine does not
read this file: it says what a run's trace should be. -/

namespace Sys2Proof.Machine

/-- The PHY events so far, oldest first (R10). -/
def State.history (s : State) : List Event := s.trace.reverse

/-- `RST(p)`: one bus reset whose presence sample returned `p` (R10, R164). -/
def frameReset (p : Bool) : List Event :=
  [.low, .wait .tRSTL, .release, .wait .tMSP, .sample p, .wait .tRSTHRem]

/-- One write slot of bit `b` (R165). -/
def frameWriteBit (b : Bool) : List Event :=
  if b then [.low, .wait .tW1L, .release, .wait .tW1R] else [.low, .wait .tW0L, .release, .wait .tRec]

/-- One read slot whose sample returned `v` (R166). -/
def frameReadBit (v : Bool) : List Event :=
  [.low, .wait .tRL, .release, .wait .tRDV, .sample v, .wait .tRRec]

/-- The bits of a byte, least significant first (R95). -/
def byteBits (x : Byte) : List Bool := (List.range 8).map x.getLsbD

/-- `WB(x)` (R10, R167). -/
def frameWriteByte (x : Byte) : List Event := (byteBits x).flatMap frameWriteBit

/-- `RB(x)` (R10, R168). -/
def frameReadByte (x : Byte) : List Event := (byteBits x).flatMap frameReadBit

/-- A handshake up to the page byte, whose reset found a device (R136). -/
def frameHandshake (command n : Byte) : List Event :=
  frameReset false ++ frameWriteByte 0xCC ++ frameWriteByte command ++ frameWriteByte n

/-- The frame of READ_PAGE n that received the page `d` (R144, R201). -/
def frameReadPage (n : Byte) (d : Page) : List Event :=
  frameHandshake 0xB8 n ++ frameHandshake 0xBE n ++ d.toList.flatMap frameReadByte

/-- The frame of WRITE_PAGE n that sent the page `d` (R144, R202). -/
def frameWritePage (n : Byte) (d : Page) : List Event :=
  frameHandshake 0x4E n ++ d.toList.flatMap frameWriteByte ++ frameHandshake 0x48 n

/-- The frame of START_VCONV and START_TCONV (R144, R291). -/
def frameStart (command : Byte) : List Event :=
  frameReset false ++ frameWriteByte 0xCC ++ frameWriteByte command

/-- The nominal line time of a frame, with T_SLACK = 0 (R381): the sum of its waits. -/
def duration (ts : TimingSet) : List Event → Nat
  | [] => 0
  | .wait t :: rest => ts.micros t + duration ts rest
  | _ :: rest => duration ts rest

/-- How many waits a frame has; with a slack each may be longer by T_SLACK (R162, R381). -/
def waitCount : List Event → Nat
  | [] => 0
  | .wait _ :: rest => waitCount rest + 1
  | _ :: rest => waitCount rest

/-- When each event of a frame but a wait happens, with T_SLACK = 0 (R381), from the time `at_` on. -/
def instants (ts : TimingSet) (at_ : Nat) : List Event → List (Event × Nat)
  | [] => []
  | .wait t :: rest => instants ts (at_ + ts.micros t) rest
  | e :: rest => (e, at_) :: instants ts at_ rest

/-- How many bus resets a frame has (R382): the waits only a reset has. -/
def resetCount (f : List Event) : Nat := f.count (.wait .tRSTL)

/-- How many bit slots a frame has (R382): the low times of write and read slots. -/
def slotCount (f : List Event) : Nat := f.count (.wait .tW1L) + f.count (.wait .tW0L) + f.count (.wait .tRL)

end Sys2Proof.Machine
end

