-- ==== Sys2Proof/Safety.lean ====
section
/-! DEFINITION. What a sound state is, in the terms the statements use: the invariants the spec gives between pieces of
state, and the discipline of the line that every sequence of positions keeps. -/

namespace Sys2Proof.Machine

/-- The line discipline of a sequence of positions, from a line that is driven or released: it is pulled low only when
released, sampled only when released (R163), released by the sequence that drove it (R49), and the sequence ends in
one `Finish`, with the line released (R9). -/
def seqDisciplined : Bool → List Micro → Bool
  | _, [] => false
  | drive, m :: rest =>
    match m with
    | .resetLow | .slotLow => !drive && seqDisciplined true rest
    | .release | .resetRelease | .releaseBit _ => drive && seqDisciplined false rest
    | .wait _ => seqDisciplined drive rest
    | .finish _ => !drive && rest.isEmpty
    | _ => !drive && seqDisciplined false rest

/-- The block's own state is at its reset values (R55): equal to `State.reset` in every field of the block. -/
def atResetValues (s : State) : Bool :=
  decide (s.cmd = 0) && !s.busy && !s.done && decide (s.result = .ok) && !s.present && !s.ready && !s.ovr
    && decide (s.busState = .idle) && !s.ie && decide (s.rxdata = 0) && decide (s.data = Vector.replicate 9 0)
    && decide (s.temp = 0) && decide (s.volt = 0) && decide (s.curr = 0) && decide (s.cap = 0)
    && decide (s.opl = 0) && decide (s.argl = 0) && decide (s.seq = []) && !s.lineDrive

/-- The invariant of the machine: the relations between pieces of state that every step keeps. -/
structure Sound (s : State) : Prop where
  /-- Held in reset, the block is at its reset values (R360). -/
  reset_holds : s.rstN = false → atResetValues s = true
  /-- Idle: no operation (R48), the line released (R49), BUS_STATE Idle (R38). -/
  idle_seq : s.busy = false → s.seq = []
  idle_line : s.busy = false → s.lineDrive = false
  idle_busState : s.busy = false → s.busState = .idle
  /-- Busy: what remains of the operation keeps the line discipline and ends in `Finish` (R9, R48, R163). -/
  busy_seq : s.busy = true → seqDisciplined s.lineDrive s.seq = true
  /-- Busy: DONE is 0, from acceptance until `Finish` (R33, R148). -/
  busy_done : s.busy = true → s.done = false
  /-- CMD holds the accepted word, whose OP and ARG are latched (R31, R148). -/
  cmd_latched : s.cmd = s.opl ++ s.argl
  /-- The device's memories keep their canonical form. -/
  mem_wf : s.dev.mem.wf = true
  sp_wf : s.dev.sp.wf = true

/-! The terms the statements share. -/

/-- The level the free LINE gives at its `k`-th sample from here on (R163): the `k`-th listed one, or a free value. -/
def State.level (s : State) (k : Nat) : Bool := (s.samples[k]?).getD (Config.lineLevel (s.draws + k))

/-- An idle block out of reset (R343), in which at least `n` CTRL steps happen before the next transition of the world
outside (log 1). -/
def IdleFor (n : Nat) (s : State) : Prop := s.rstN = true ∧ s.busy = false ∧ n ≤ s.gap

/-- The page `d` is what the free LINE gives from its sample `first` on: nine bytes in index order, each least
significant bit first (R95, R201). -/
def PageSampled (s : State) (first : Nat) (d : Page) : Prop :=
  ∀ k, k < 9 → ∀ i, i < 8 → (dataByte d k).getLsbD i = s.level (first + 8 * k + i)

/-- What the completion of an accepted command leaves, and nothing else: the accepted word in CMD, OPL and ARGL (R148);
RESULT, DONE, BUSY, BUS_STATE, SEQ and the line as `Finish` sets them (R9, R329); the gap spent. The procedure state of
R50, which means nothing outside its procedure, and the model's `epoch` are those of `t`. Every other field is that of
`s`; a statement adds the fields its operation writes. -/
def completed (w : CmdWord) (c : ResultCode) (s t : State) : State :=
  { s with
    cmd := w
    opl := w.extractLsb' 8 8
    argl := w.extractLsb' 0 8
    busy := false
    done := true
    result := c
    busState := .idle
    seq := []
    lineDrive := false
    gap := 0
    slot := t.slot
    shift := t.shift
    byteCnt := t.byteCnt
    vbit := t.vbit
    epoch := t.epoch }

/-- A completion with a failure code of an operation whose reset found no device (R170): PRESENT is 0, the registers the
operation lists as outputs are those of `t`, and nothing else changed; a statement adds the trace and the samples spent
(R338). -/
def aborted (w : CmdWord) (c : ResultCode) (outs : Outputs) (s t : State) : State :=
  { completed w c s t with
    present := false
    data := if outs.data then t.data else s.data
    rxdata := if outs.rxdata then t.rxdata else s.rxdata
    temp := if outs.temp then t.temp else s.temp
    volt := if outs.volt then t.volt else s.volt
    curr := if outs.curr then t.curr else s.curr
    cap := if outs.cap then t.cap else s.cap
    ready := if outs.ready then t.ready else s.ready }

/-- A 32-bit read of the register at an offset. -/
def readAccess (off : BitVec 7) : Input := .port ⟨.read, 4, off⟩

/-- A 32-bit write to the register at an offset. -/
def writeAccess (off : BitVec 7) (v : Word) : Input := .port ⟨.write v, 4, off⟩

/-- The host port has answered `r`, the inputs `rest` are still to come and no CTRL step is owed; nothing else changed. -/
def answered (s : State) (r : HostResponse) (rest : List (Input × Nat)) : State :=
  { s with resp := r, inputs := rest, gap := 0 }

end Sys2Proof.Machine
end

