-- ==== Sys2Proof/Certificates/Slice0/Obligations.lean ====
section
/-! DEFINITION. The statements for the provers. `IdleFor n s` says that an idle block gets at least `n` CTRL steps before the
next transition outside, which is how a run of an operation stands in one step (log 1); the counts of CTRL steps are
the model's (log 10). Traces are newest first, so a frame stands reversed at the head. -/

open Sys2Proof Sys2Proof.Machine

/-! ### Encoding (30_encoding.md) -/

/-- The decoder inverts the encoder on every instruction with every operand, and the host commands are the instructions
of format CMD16 (R130, R133, R137 to R143). -/
def Obligations.DecodeInvertsEncode : Prop :=
  ∀ i : Instr, decodeEncoded (encode i) = some i ∧ (i.isHostCommand = true ↔ ∃ w, encode i = .cmd16 w)

/-- R135: a word whose OP is a row spells that row's operation, and every other word spells ILLEGAL by its OP; the
unassigned OPs are the ranges of R134. -/
def Obligations.DecoderIsTotalAndExact : Prop :=
  ∀ w : CmdWord,
    (∀ i, decode w = .instr i ↔ encode i = .cmd16 w)
    ∧ (∀ op : Byte, decode w = .illegal op ↔
        op.toNat = w.toNat / 256
        ∧ (op.toNat = 0x00 ∨ (0x06 ≤ op.toNat ∧ op.toNat ≤ 0x0F) ∨ (0x12 ≤ op.toNat ∧ op.toNat ≤ 0x1F)
          ∨ (0x28 ≤ op.toNat ∧ op.toNat ≤ 0x2F) ∨ (0x35 ≤ op.toNat ∧ op.toNat ≤ 0x3F) ∨ 0x44 ≤ op.toNat))

/-- R131: the operation is selected by `w[15:8]` alone, never by ARG. -/
def Obligations.OpAloneSelects : Prop :=
  ∀ op : Byte,
    (∃ r ∈ hostRows, r.op = op ∧ ∀ arg : Byte, decode (op ++ arg) = .instr (r.make arg))
    ∨ ((∀ r ∈ hostRows, r.op ≠ op) ∧ ∀ arg : Byte, decode (op ++ arg) = .illegal op)

/-- Words written out from the opcode map (R133) and the examples of R146, and two wire bytes (R137, R143). -/
def Obligations.WordsDecodeAsTheMapSays : Prop :=
  decode 0x0100 = .instr (.busReset 0x00) ∧ decode 0x0201 = .instr (.writeBit 0x01)
    ∧ decode 0x04CC = .instr (.writeByte 0xCC) ∧ decode 0x1003 = .instr (.readPage 0x03)
    ∧ decode 0x1102 = .instr (.writePage 0x02) ∧ decode 0x2500 = .instr (.readTemperature 0x00)
    ∧ decode 0x2600 = .instr (.getCurrent 0x00) ∧ decode 0x3400 = .instr (.selectInput 0x00)
    ∧ decode 0x4100 = .instr (.decodeVolt 0x00) ∧ decode 0x7700 = .illegal 0x77
    ∧ decodeWire 0xCC = some .skipROM ∧ decodeWire 0x44 = some .tempConvert

/-- R146: a line with a mnemonic of the map and a number in 0..255 assembles to `(OP << 8) | arg`, without a number to
`OP << 8`, and a larger number does not assemble. -/
def Obligations.AssemblerForms : Prop :=
  ∀ r ∈ hostRows,
    (∀ n, n ≤ 255 → ∃ w : CmdWord, assemble ⟨r.mnemonic, some n⟩ = some w ∧ w.toNat = 256 * r.op.toNat + n
      ∧ decode w = .instr (r.make (BitVec.ofNat 8 n)))
    ∧ assemble ⟨r.mnemonic, none⟩ = assemble ⟨r.mnemonic, some 0⟩
    ∧ ∀ n, 255 < n → assemble ⟨r.mnemonic, some n⟩ = none

/-! ### The step -/

/-- A host write to CMD runs the instruction its low 16 bits decode to: the step is `exec` of it on the state whose
inputs are the rest, whose gap is the one listed with the write, and whose port has answered "done" (R148, log 1); a
word that spells ILLEGAL runs `illegalCommand` instead. -/
def Obligations.StepRunsDecodedCommand : Prop :=
  ∀ (s : State) (v : Word) (n : Nat) (rest : List (Input × Nat)), s.inputs = (writeAccess 0 v, n) :: rest →
    (∀ i, decode (v.setWidth 16) = .instr i →
      step s = exec i { s with inputs := rest, gap := n, resp := .done })
    ∧ (∀ op, decode (v.setWidth 16) = .illegal op →
      step s = illegalCommand (v.setWidth 16) { s with inputs := rest, gap := n, resp := .done })

/-- With nothing pending from outside, a running operation whose next position is a wire byte runs the wire command the
byte decodes to, on the state past that position (R48, R136, log 14). -/
def Obligations.StepRunsWireCommand : Prop :=
  ∀ (s : State) (x : Byte) (i : Instr) (rest : List Micro), s.inputs = [] → s.rstN = true → s.busy = true →
    s.seq = .command x :: rest → decodeWire x = some i →
    step s = exec i { s with seq := rest, epoch := s.epoch + 1 }

/-- What one CTRL step does at each primitive of the line (R160 to R163), with the BUS_STATE it leaves (R164 to R166, R169):
LineLow, LineRelease, Wait and Sample, each with its trace event; BUS_STATE is Presence from the release of a bus reset,
and the release of a write slot is also seen by the LINE. The positions, the free sample and `epoch` are the model's (log 3,
log 4, log 7, log 10, log 12). -/
def Obligations.LinePrimitives : Prop :=
  ∀ (s : State) (rest : List Micro), s.inputs = [] → s.rstN = true → s.busy = true → s.gap = 0 →
    owOe s = s.lineDrive
    ∧ (s.seq = .slotLow :: rest → step s = .next { s with
        seq := rest, epoch := s.epoch + 1, lineDrive := true, busState := .bitSlot, trace := .low :: s.trace })
    ∧ (s.seq = .writeSlot :: rest → step s = .next { s with
        seq := writeBitTail (s.shift.getLsbD s.slot.toNat) ++ (if s.slot = 7 then rest else .writeSlot :: rest)
        epoch := s.epoch + 1, lineDrive := true, busState := .bitSlot, slot := s.slot + 1, trace := .low :: s.trace })
    ∧ (s.seq = .readSlot :: rest → step s = .next { s with
        seq := readBitTail ++ .shiftIn :: (if s.slot = 7 then rest else .readSlot :: rest)
        epoch := s.epoch + 1, lineDrive := true, busState := .bitSlot, slot := s.slot + 1, trace := .low :: s.trace })
    ∧ (s.seq = .resetLow :: rest → step s = .next { s with
        seq := rest, epoch := s.epoch + 1, lineDrive := true, busState := .reset, trace := .low :: s.trace })
    ∧ (s.seq = .release :: rest → step s = .next { s with
        seq := rest, epoch := s.epoch + 1, lineDrive := false, trace := .release :: s.trace })
    ∧ (s.seq = .resetRelease :: rest → step s = .next { s with
        seq := rest, epoch := s.epoch + 1, lineDrive := false, busState := .presence, trace := .release :: s.trace })
    ∧ (∀ b, s.seq = .releaseBit b :: rest → step s = .next { s with
        seq := rest, epoch := s.epoch + 1, lineDrive := false, dev := devAfterWrite s.line s.dev b
        trace := .release :: s.trace })
    ∧ (∀ t, s.seq = .wait t :: rest → step s = .next { s with
        seq := rest, epoch := s.epoch + 1, trace := .wait t :: s.trace })
    ∧ (s.seq = .waitPresence :: rest → step s = .next { s with
        seq := rest, epoch := s.epoch + 1, busState := .presence, trace := .wait .tMSP :: s.trace })
    ∧ (s.line = .free → s.seq = .sampleBit :: rest ∨ s.seq = .samplePresence :: rest → step s = .next { s with
        seq := rest, epoch := s.epoch + 1, vbit := s.level 0, samples := s.samples.drop 1, draws := s.draws + 1,
        trace := .sample (s.level 0) :: s.trace })

/-- R343: while BUSY = 0 and nothing comes from outside, the block does nothing. -/
def Obligations.IdleBlockDoesNothing : Prop :=
  ∀ s : State, s.inputs = [] → s.busy = false → step s = .next { s with gap := 0 }

/-- Who writes the status fields (R34, R35, R36, R169): in one CTRL step of a running operation, RESULT, DONE and BUSY
change only at `Finish`, PRESENT only where a bus reset ends, READY only at a busy-bit test or a failed `Finish`;
BUS_STATE becomes Reset where a bus reset pulls the line low, Presence at its release and again at its Wait(T_MSP),
BitSlot where a slot begins, Idle at `Finish`, and is unchanged at every other position; OVR, IE and CMD do not change.
Which CTRL step holds each write is the model's (log 10, log 12, log 18). -/
def Obligations.StatusFieldsHaveTheirWriters : Prop :=
  ∀ (s : State) (m : Micro) (rest : List Micro), s.rstN = true → s.busy = true → s.seq = m :: rest →
    ((∀ c, m ≠ .finish c) →
      (ctrlStep s).result = s.result ∧ (ctrlStep s).done = s.done ∧ (ctrlStep s).busy = s.busy)
    ∧ ((∀ c, m ≠ .latchPresence c) → (ctrlStep s).present = s.present)
    ∧ ((ctrlStep s).ready ≠ s.ready → (∃ k, m = .testReady k ∨ m = .pollReady k) ∨ ∃ c, c ≠ .ok ∧ m = .finish c)
    ∧ (m = .resetLow → (ctrlStep s).busState = .reset)
    ∧ (m = .resetRelease ∨ m = .waitPresence → (ctrlStep s).busState = .presence)
    ∧ (m = .slotLow ∨ m = .writeSlot ∨ m = .readSlot → (ctrlStep s).busState = .bitSlot)
    ∧ ((∃ c, m = .finish c) → (ctrlStep s).busState = .idle)
    ∧ (m ≠ .resetLow → m ≠ .resetRelease → m ≠ .waitPresence → m ≠ .slotLow → m ≠ .writeSlot → m ≠ .readSlot →
      (∀ c, m ≠ .finish c) → (ctrlStep s).busState = s.busState)
    ∧ (ctrlStep s).ovr = s.ovr ∧ (ctrlStep s).ie = s.ie ∧ (ctrlStep s).cmd = s.cmd

/-! ### Reset and the invariant -/

/-- R55: every piece of state the table gives a value, after reset; every register of the window reads 0. -/
def Obligations.ResetLeavesTheTable : Prop :=
  State.reset.cmd = 0 ∧ State.reset.busy = false ∧ State.reset.done = false ∧ State.reset.present = false
    ∧ State.reset.ready = false ∧ State.reset.ovr = false ∧ resultBits State.reset.result = 0
    ∧ State.reset.busState = .idle ∧ State.reset.ie = false ∧ State.reset.rxdata = 0
    ∧ (∀ k, k < 9 → dataByte State.reset.data k = 0) ∧ State.reset.temp = 0 ∧ State.reset.volt = 0
    ∧ State.reset.curr = 0 ∧ State.reset.cap = 0 ∧ State.reset.opl = 0 ∧ State.reset.argl = 0
    ∧ State.reset.seq = [] ∧ State.reset.lineDrive = false ∧ owOe State.reset = false ∧ irq State.reset = false
    ∧ ∀ off : BitVec 7, readRegister State.reset off = 0

/-- The state after reset is sound. -/
def Obligations.ResetIsSound : Prop := Sound State.reset

/-- Every step keeps soundness: the relations of `Sound` between SEQ, BUSY, DONE, BUS_STATE, the line drive, CMD, OPL,
ARGL, `rst_n` and the device's memories (R31, R38, R48, R49, R163, R360). The canonical form of the memories is the
model's (log 5). -/
def Obligations.StepKeepsSound : Prop :=
  ∀ s t : State, Sound s → step s = .next t → Sound t

/-- R360, R361 and R362: pulling `rst_n` low at any moment puts the block at its reset values at once, with the line
released and no interrupt, and leaves the line's other end, the device and the trace as they were. What the block does
not own keeps its value by log 15. -/
def Obligations.BlockResetAbandonsOperation : Prop :=
  ∀ (s : State) (n : Nat) (rest : List (Input × Nat)), s.inputs = (.resetPin false, n) :: rest →
    ∃ t, step s = .next t ∧ t.rstN = false ∧ atResetValues t = true ∧ owOe t = false ∧ irq t = false
      ∧ t.dev = s.dev ∧ t.trace = s.trace ∧ t.line = s.line ∧ t.samples = s.samples ∧ t.draws = s.draws
      ∧ t.inputs = rest

/-- R360: while `rst_n` is 0 the block performs no CTRL step, ignores host writes and answers reads with the reset
values (0); when `rst_n` returns to 1 it is as it was, idle. An undefined access still gets the error response (log 15).
-/
def Obligations.HeldInResetNothingMoves : Prop :=
  ∀ s : State, s.rstN = false → atResetValues s = true →
    (∀ a n rest, s.inputs = (.port a, n) :: rest →
      ∃ r, step s = .next (answered s r rest)
        ∧ (a.bytes = 4 ∧ a.offset.toNat % 4 = 0 → a.op = .read → r = .data 0)
        ∧ (a.bytes = 4 ∧ a.offset.toNat % 4 = 0 → ∀ v, a.op = .write v → r = .done)
        ∧ (¬(a.bytes = 4 ∧ a.offset.toNat % 4 = 0) → r = .accessFault))
    ∧ (s.inputs = [] → step s = .next { s with gap := 0 })
    ∧ (∀ n rest, s.inputs = (.resetPin true, n) :: rest →
      step s = .next { s with rstN := true, inputs := rest, gap := 0 })

/-! ### The host port -/

/-- R83: every host read returns the register's value and changes no state, whatever comes after it: the machine goes on,
with the `n` CTRL steps before the next input, from the same state with the answer given. A second read of the register
with no step between returns the same. -/
def Obligations.ReadsHaveNoSideEffects : Prop :=
  ∀ (s : State) (off : BitVec 7) (n : Nat) (rest : List (Input × Nat)), off.toNat % 4 = 0 →
    s.inputs = (readAccess off, n) :: rest →
    step s = .next { ctrlSteps n { s with inputs := rest, resp := .data (readRegister s off), gap := n } with gap := 0 }
    ∧ ∀ (m : Nat) (rest' : List (Input × Nat)), n = 0 → rest = (readAccess off, m) :: rest' →
      ∃ t, step s = .next t ∧ t.resp = .data (readRegister s off)
        ∧ step t = .next
          { ctrlSteps m { s with inputs := rest', resp := .data (readRegister s off), gap := m } with gap := 0 }

/-- The fields of STATUS at their bits, at any moment (R32 to R39, R86). -/
def Obligations.StatusReadsItsFields : Prop :=
  ∀ s : State,
    (readRegister s 0x04).getLsbD 0 = s.busy ∧ (readRegister s 0x04).getLsbD 1 = s.done
    ∧ (s.result = .ok → (readRegister s 0x04).extractLsb' 2 3 = 0)
    ∧ (s.result = .deviceNotFound → (readRegister s 0x04).extractLsb' 2 3 = 1)
    ∧ (s.result = .badParameter → (readRegister s 0x04).extractLsb' 2 3 = 2)
    ∧ (s.result = .operationError → (readRegister s 0x04).extractLsb' 2 3 = 3)
    ∧ (s.result = .illegalCommand → (readRegister s 0x04).extractLsb' 2 3 = 4)
    ∧ (readRegister s 0x04).getLsbD 5 = s.present ∧ (readRegister s 0x04).getLsbD 6 = s.ready
    ∧ (readRegister s 0x04).getLsbD 7 = s.ovr
    ∧ (s.busState = .idle → (readRegister s 0x04).extractLsb' 8 3 = 0)
    ∧ (s.busState = .reset → (readRegister s 0x04).extractLsb' 8 3 = 1)
    ∧ (s.busState = .presence → (readRegister s 0x04).extractLsb' 8 3 = 2)
    ∧ (s.busState = .bitSlot → (readRegister s 0x04).extractLsb' 8 3 = 3)
    ∧ ∀ i, 11 ≤ i → (readRegister s 0x04).getLsbD i = false

/-- The other registers of the map while BUSY = 0 (R31, R40 to R46): each at its offset, its reserved bits 0. -/
def Obligations.IdleReadsTheRegisters : Prop :=
  ∀ s : State, s.busy = false →
    (readRegister s 0x00).toNat = s.cmd.toNat
    ∧ (readRegister s 0x08).toNat = (if s.ie then 1 else 0)
    ∧ (readRegister s 0x0C).toNat = s.rxdata.toNat
    ∧ (∀ k, k < 9 → (readRegister s (BitVec.ofNat 7 (0x10 + 4 * k))).toNat = (dataByte s.data k).toNat)
    ∧ readRegister s 0x40 = s.temp ∧ (readRegister s 0x44).toNat = s.volt.toNat
    ∧ readRegister s 0x48 = s.curr ∧ (readRegister s 0x4C).toNat = s.cap.toNat

/-- R86: while BUSY = 1, CMD and CTRL read their current values, and the unspecified values of RXDATA, DATA, VOLT and
CAP have their reserved bits 0. The unspecified values are free values (log 7). -/
def Obligations.BusyReadsKeepReservedBitsZero : Prop :=
  ∀ s : State, s.busy = true →
    (readRegister s 0x00).toNat = s.cmd.toNat
    ∧ (readRegister s 0x08).toNat = (if s.ie then 1 else 0)
    ∧ (readRegister s 0x0C).toNat < 2 ^ 8
    ∧ (∀ k, k < 9 → (readRegister s (BitVec.ofNat 7 (0x10 + 4 * k))).toNat < 2 ^ 8)
    ∧ (readRegister s 0x44).toNat < 2 ^ 10 ∧ (readRegister s 0x4C).toNat < 2 ^ 8

/-- R47: the reserved offsets read 0, and writes to them are ignored and raise nothing. -/
def Obligations.ReservedOffsetsAreInert : Prop :=
  ∀ (s : State) (off : BitVec 7) (rest : List (Input × Nat)),
    (off = 0x34 ∨ off = 0x38 ∨ off = 0x3C ∨ (0x50 ≤ off.toNat ∧ off.toNat % 4 = 0)) →
    (s.inputs = (readAccess off, 0) :: rest → step s = .next (answered s (.data 0) rest))
    ∧ (∀ v, s.inputs = (writeAccess off v, 0) :: rest →
      ∃ t, step s = .next t ∧ t = { answered s .done rest with epoch := t.epoch })

/-- R30 and R84: writes to the read-only registers RXDATA, TEMP, VOLT, CURR and CAP are ignored and raise nothing. The
model's own `epoch` may change (log 7). -/
def Obligations.ReadOnlyRegistersIgnoreWrites : Prop :=
  ∀ (s : State) (off : BitVec 7) (v : Word) (rest : List (Input × Nat)),
    off = 0x0C ∨ off = 0x40 ∨ off = 0x44 ∨ off = 0x48 ∨ off = 0x4C → s.inputs = (writeAccess off v, 0) :: rest →
    ∃ t, step s = .next t ∧ t = { answered s .done rest with epoch := t.epoch }

/-- R81 and R325: an access that is not 32 bits at a multiple of 4 gets the error response and nothing else; a running
operation goes on as it would. The error response as a next state is the model's reading (log 8). -/
def Obligations.AccessFaultChangesNothing : Prop :=
  ∀ (s : State) (a : HostAccess) (n : Nat) (rest : List (Input × Nat)), s.inputs = (.port a, n) :: rest →
    ¬(a.bytes = 4 ∧ a.offset.toNat % 4 = 0) →
    step s = .next { ctrlSteps n { s with inputs := rest, resp := .accessFault, gap := n } with gap := 0 }

/-- R80: the window lies at REG_BASE; an address outside it is not the OWC's (log 9). -/
def Obligations.WindowLiesAtRegBase : Prop :=
  ∀ (s : State) (addr bytes : Nat) (op : HostOp) (n : Nat) (rest : List (Input × Nat)),
    s.inputs = (.bus addr bytes op, n) :: rest →
    (∀ off : BitVec 7, addr = Config.params.regBase + off.toNat →
      step s = step { s with inputs := (.port ⟨op, bytes, off⟩, n) :: rest })
    ∧ (addr < Config.params.regBase ∨ Config.params.regBase + 0x80 ≤ addr →
      step s = .fault (.outsideWindow addr))

/-- R33, R37 and R39: a write to STATUS clears DONE by bit 1 and OVR by bit 7, and changes nothing else. The model's own
`epoch` may change (log 7). -/
def Obligations.StatusWriteClearsByOnes : Prop :=
  ∀ (s : State) (v : Word) (rest : List (Input × Nat)), s.rstN = true → s.inputs = (writeAccess 0x04 v, 0) :: rest →
    ∃ t, step s = .next t
      ∧ t = { answered s .done rest with
          done := if v.getLsbD 1 then false else s.done
          ovr := if v.getLsbD 7 then false else s.ovr
          epoch := t.epoch }

/-- R40: CTRL[0] is IE; a write takes effect at once, also while BUSY = 1, and moves the interrupt line with it (R331).
-/
def Obligations.CtrlWriteSetsEnable : Prop :=
  State.reset.ie = false
  ∧ ∀ (s : State) (v : Word) (rest : List (Input × Nat)), s.rstN = true → s.inputs = (writeAccess 0x08 v, 0) :: rest →
    ∃ t, step s = .next t ∧ t = { answered s .done rest with ie := v.getLsbD 0, epoch := t.epoch }
      ∧ (readRegister t 0x08).toNat = (if v.getLsbD 0 then 1 else 0) ∧ irq t = (v.getLsbD 0 && s.done)

/-- R42 and R85: a write to DATAk sets the page byte from bits 7:0 while BUSY = 0, and is ignored while BUSY = 1. The
model's own `epoch` may change (log 7). -/
def Obligations.DataWritesOnlyWhileIdle : Prop :=
  ∀ (s : State) (k : Nat) (v : Word) (rest : List (Input × Nat)), k < 9 → s.rstN = true →
    s.inputs = (writeAccess (BitVec.ofNat 7 (0x10 + 4 * k)) v, 0) :: rest →
    ∃ t, step s = .next t ∧ t = { answered s .done rest with data := t.data, epoch := t.epoch }
      ∧ (s.busy = true → t.data = s.data)
      ∧ (s.busy = false → ∀ j, j < 9 → dataByte t.data j = if j = k then v.setWidth 8 else dataByte s.data j)

/-! ### Acceptance and completion -/

/-- R148: an idle block accepts every command word, assigned or not: CMD, OPL and ARGL hold it, DONE is 0, BUSY is 1, an
operation is in SEQ, and nothing else changes; `v[31:16]` is ignored (R31). The positions in SEQ and `epoch` are the
model's (log 7, log 10). -/
def Obligations.AcceptanceLatchesCommand : Prop :=
  ∀ (s : State) (v : Word) (rest : List (Input × Nat)), s.rstN = true → s.busy = false →
    s.inputs = (writeAccess 0 v, 0) :: rest →
    ∃ ops : List Micro, ops ≠ [] ∧ step s = .next { answered s .done rest with
      cmd := v.setWidth 16
      opl := (v >>> 8).setWidth 8
      argl := v.setWidth 8
      done := false
      busy := true
      seq := ops
      epoch := s.epoch + 1 }

/-- R85 and R326: a CMD write while BUSY = 1 is dropped and sets OVR; the running operation is not affected. The model's
own `epoch` counts the transition (log 7). -/
def Obligations.CommandWhileBusyIsDropped : Prop :=
  ∀ (s : State) (v : Word) (rest : List (Input × Nat)), s.rstN = true → s.busy = true →
    s.inputs = (writeAccess 0 v, 0) :: rest →
    step s = .next { answered s .done rest with ovr := true, epoch := s.epoch + 1 }

/-- R324: a command with an unassigned OP is accepted; `Finish(ILLEGAL_COMMAND)` is its first CTRL step, and no bus
activity happens and no output is written. -/
def Obligations.IllegalCommandFinishesAtOnce : Prop :=
  ∀ (s : State) (v : Word) (n : Nat) (op : Byte) (rest : List (Input × Nat)), s.rstN = true → s.busy = false →
    s.inputs = (writeAccess 0 v, n) :: rest → decode (v.setWidth 16) = .illegal op →
    ∃ t, step s = .next t
      ∧ (n = 0 → t.busy = true ∧ t.done = false ∧ t.result = s.result ∧ t.trace = s.trace)
      ∧ (0 < n → t = completed (v.setWidth 16) .illegalCommand (answered s .done rest) t)

/-- R9, R329 and R338: what `Finish` writes for every code; with OK no output changes, and with another code only
registers the operation in OPL lists as outputs may. The unspecified outputs are free values (log 6). -/
def Obligations.FinishWritesItsFields : Prop :=
  ∀ (c : ResultCode) (s : State),
    finish c s = { s with
      result := c
      busState := .idle
      busy := false
      done := true
      seq := []
      lineDrive := false
      data := (finish c s).data
      rxdata := (finish c s).rxdata
      temp := (finish c s).temp
      volt := (finish c s).volt
      curr := (finish c s).curr
      cap := (finish c s).cap
      ready := (finish c s).ready }
    ∧ (c = .ok ∨ s.opl ∉ [0x10, 0x22, 0x23, 0x24, 0x25, 0x26, 0x27, 0x30, 0x31, 0x32, 0x33, 0x34] →
      (finish c s).data = s.data)
    ∧ (c = .ok ∨ s.opl ∉ [0x03, 0x05] → (finish c s).rxdata = s.rxdata)
    ∧ (c = .ok ∨ s.opl ∉ [0x25, 0x40] → (finish c s).temp = s.temp)
    ∧ (c = .ok ∨ s.opl ∉ [0x24, 0x41] → (finish c s).volt = s.volt)
    ∧ (c = .ok ∨ s.opl ∉ [0x26, 0x42] → (finish c s).curr = s.curr)
    ∧ (c = .ok ∨ s.opl ∉ [0x27, 0x43] → (finish c s).cap = s.cap)
    ∧ (c = .ok ∨ s.opl ∉ [0x22, 0x23, 0x24, 0x25] → (finish c s).ready = s.ready)

/-! ### The PHY family -/

/-- BUS_RESET completes with OK for every LINE, PRESENT reporting the sample (R164, R173); nothing else changes. The
CTRL step count is the model's (log 1, log 10). -/
def Obligations.BusResetCompletes : Prop :=
  ∀ (arg : Byte) (s : State), IdleFor 8 s →
    ∃ t, exec (.busReset arg) s = .next t
      ∧ t = { completed (0x01#8 ++ arg) .ok s t with
          present := !s.presenceLevel
          samples := samplesAfter s.line s.samples
          draws := s.draws + 1
          dev := devAfterReset s.line s.dev
          trace := (frameReset s.presenceLevel).reverse ++ s.trace }

/-- R172: with PRESENT = 0 the four raw operations perform no bus activity and finish with DEVICE_NOT_FOUND; only
RXDATA, the output of the two reads, may change. The gap of one CTRL step and the free outputs are the model's (log 1,
log 6, log 17). -/
def Obligations.RawOperationsNeedPresence : Prop :=
  ∀ (arg : Byte) (i : Instr) (op : Byte) (reads : Bool) (s : State),
    (i, op, reads) ∈ [(Instr.writeBit arg, (0x02 : Byte), false), (.readBit arg, 0x03, true), (.writeByte arg, 0x04, false),
      (.readByte arg, 0x05, true)] →
    IdleFor 1 s → s.present = false →
    ∃ t, exec i s = .next t ∧ t = { completed (op ++ arg) .deviceNotFound s t with rxdata := t.rxdata }
      ∧ (reads = false → t.rxdata = s.rxdata)

/-- WRITE_BIT completes with one write slot of ARG[0], for every LINE (R165, R174); nothing else changes. The CTRL step
count is the model's (log 1, log 10). -/
def Obligations.WriteBitCompletes : Prop :=
  ∀ (arg : Byte) (s : State), IdleFor 5 s → s.present = true →
    ∃ t, exec (.writeBit arg) s = .next t
      ∧ t = { completed (0x02#8 ++ arg) .ok s t with
          dev := devAfterWrite s.line s.dev (arg.getLsbD 0)
          trace := (frameWriteBit (arg.getLsbD 0)).reverse ++ s.trace }

/-- READ_BIT completes with one read slot and its bit in RXDATA, for every LINE (R166, R175); nothing else changes. The
CTRL step count is the model's (log 1, log 10). -/
def Obligations.ReadBitCompletes : Prop :=
  ∀ (arg : Byte) (s : State), IdleFor 8 s → s.present = true →
    ∃ t, exec (.readBit arg) s = .next t
      ∧ t = { completed (0x03#8 ++ arg) .ok s t with
          rxdata := if s.slotLevel then 1 else 0
          samples := samplesAfter s.line s.samples
          draws := s.draws + 1
          dev := devAfterRead s.line s.dev
          trace := (frameReadBit s.slotLevel).reverse ++ s.trace }

/-- WRITE_BYTE completes with the eight write slots of ARG, least significant bit first, for every LINE (R167, R176);
nothing else changes. The CTRL step count is the model's (log 1, log 10). -/
def Obligations.WriteByteCompletes : Prop :=
  ∀ (arg : Byte) (s : State), IdleFor 34 s → s.present = true →
    ∃ t, exec (.writeByte arg) s = .next t
      ∧ t = { completed (0x04#8 ++ arg) .ok s t with
          dev := (byteBits arg).foldl (devAfterWrite s.line) s.dev
          trace := (frameWriteByte arg).reverse ++ s.trace }

/-- READ_BYTE completes with eight read slots, and bit `i` of RXDATA is the `i`-th level of the free LINE (R168, R177);
nothing else changes. The CTRL step count is the model's (log 1, log 10). -/
def Obligations.ReadByteCompletes : Prop :=
  ∀ (arg : Byte) (s : State), IdleFor 59 s → s.present = true → s.line = .free →
    ∃ t, exec (.readByte arg) s = .next t
      ∧ t = { completed (0x05#8 ++ arg) .ok s t with
          rxdata := t.rxdata
          samples := s.samples.drop 8
          draws := s.draws + 8
          trace := (frameReadByte t.rxdata).reverse ++ s.trace }
      ∧ ∀ i, i < 8 → t.rxdata.getLsbD i = s.level i

/-- The seven wire commands: in a running operation each sends its byte, eight write slots least significant bit first,
then SEQ goes on (R137 to R143, R167); nothing else changes before it does. The 32 CTRL steps and the place of the fetch
are the model's (log 10, log 14). -/
def Obligations.WireCommandsSendTheirByte : Prop :=
  ∀ (i : Instr) (x : Byte) (s : State),
    (i, x) ∈ [(Instr.skipROM, (0xCC : Byte)), (.recallMemory, 0xB8), (.readScratchpad, 0xBE), (.writeScratchpad, 0x4E),
      (.copyScratchpad, 0x48), (.voltageConvert, 0xB4), (.tempConvert, 0x44)] →
    s.rstN = true → s.busy = true → 32 ≤ s.gap →
    exec i s = .next { ctrlSteps (s.gap - 32) { s with
        busState := .bitSlot
        lineDrive := false
        slot := 0
        shift := x
        epoch := s.epoch + 32
        dev := (byteBits x).foldl (devAfterWrite s.line) s.dev
        trace := (frameWriteByte x).reverse ++ s.trace } with gap := 0 }

/-! ### Pages -/

/-- R200: READ_PAGE and WRITE_PAGE of a page above 7 finish with BAD_PARAMETER, having issued no reset and no slot; only
DATA, the output of READ_PAGE, may change (R338). The gap of one CTRL step and the free outputs are the model's (log 1,
log 6, log 17). -/
def Obligations.PageAboveSevenIsRejected : Prop :=
  ∀ (n : Byte) (s : State), 7 < n.toNat → IdleFor 1 s →
    (∃ t, exec (.readPage n) s = .next t
      ∧ t = { completed (0x10#8 ++ n) .badParameter s t with data := t.data })
    ∧ ∃ t, exec (.writePage n) s = .next t ∧ t = completed (0x11#8 ++ n) .badParameter s t

/-- READ_PAGE of a page 0 to 7 completes when both resets find a device (R201, R206): DATA is the nine bytes received,
the trace is the frame of R144, and nothing else changes. The CTRL step count is the model's (log 1, log 10). -/
def Obligations.ReadPageCompletes : Prop :=
  ∀ (n : Byte) (s : State), n.toNat ≤ 7 → IdleFor 736 s → s.line = .free →
    s.level 0 = false → s.level 1 = false →
    ∃ t, exec (.readPage n) s = .next t
      ∧ t = { completed (0x10#8 ++ n) .ok s t with
          present := true
          data := t.data
          samples := s.samples.drop 74
          draws := s.draws + 74
          trace := (frameReadPage n t.data).reverse ++ s.trace }
      ∧ PageSampled s 2 t.data

/-- WRITE_PAGE of a page 0 to 7 completes when both resets find a device (R202, R207): the trace is the frame of R144
with the bytes of DATA, DATA is not changed, and nothing else changes. The CTRL step count is the model's (log 1, log
10). -/
def Obligations.WritePageCompletes : Prop :=
  ∀ (n : Byte) (s : State), n.toNat ≤ 7 → IdleFor 520 s → s.line = .free →
    s.level 0 = false → s.level 1 = false →
    ∃ t, exec (.writePage n) s = .next t
      ∧ t = { completed (0x11#8 ++ n) .ok s t with
          present := true
          samples := s.samples.drop 2
          draws := s.draws + 2
          trace := (frameWritePage n s.data).reverse ++ s.trace }

/-- R321 and R170: every operation that begins with a bus reset, other than BUS_RESET, finishes with DEVICE_NOT_FOUND
when its first reset finds no device, for every LINE; that reset is its last bus activity, and only its outputs may
change otherwise (R338). The CTRL step counts and the free outputs are the model's (log 1, log 6, log 10). -/
def Obligations.FirstResetFailureEndsOperation : Prop :=
  ∀ (arg : Byte) (i : Instr) (op : Byte) (outs : Outputs) (s : State),
    (i, op, outs) ∈ [(Instr.readPage arg, (0x10 : Byte), ({ data := true } : Outputs)), (.writePage arg, 0x11, {}),
      (.startVConv arg, 0x20, {}), (.startTConv arg, 0x21, {}),
      (.hasDataV arg, 0x22, { data := true, ready := true }), (.hasDataT arg, 0x23, { data := true, ready := true }),
      (.readVoltage arg, 0x24, { data := true, volt := true, ready := true }),
      (.readTemperature arg, 0x25, { data := true, temp := true, ready := true }),
      (.getCurrent arg, 0x26, { data := true, curr := true }), (.getCapacity arg, 0x27, { data := true, cap := true }),
      (.enableIAD arg, 0x30, { data := true }), (.disableIAD arg, 0x31, { data := true }),
      (.enableCA arg, 0x32, { data := true }), (.disableCA arg, 0x33, { data := true }),
      (.selectInput arg, 0x34, { data := true })] →
    (op = 0x10 ∨ op = 0x11 → arg.toNat ≤ 7) → IdleFor 8 s → s.presenceLevel = true →
    ∃ t, exec i s = .next t
      ∧ t = { completed (op ++ arg) .deviceNotFound s t with
          present := false
          data := t.data
          temp := t.temp
          volt := t.volt
          curr := t.curr
          cap := t.cap
          ready := t.ready
          samples := samplesAfter s.line s.samples
          draws := s.draws + 1
          dev := devAfterReset s.line s.dev
          trace := (frameReset true).reverse ++ s.trace }
      ∧ (outs.data = false → t.data = s.data) ∧ (outs.temp = false → t.temp = s.temp)
      ∧ (outs.volt = false → t.volt = s.volt) ∧ (outs.curr = false → t.curr = s.curr)
      ∧ (outs.cap = false → t.cap = s.cap) ∧ (outs.ready = false → t.ready = s.ready)

/-- A later reset that finds no device ends every page transaction with DEVICE_NOT_FOUND, and nothing is sent after it (R170,
R203, R321): the second reset of READ_PAGE and of every operation that reads one page, among them the read phase of a
mutator (R271), when the recall has gone out; the second reset of WRITE_PAGE, when the nine bytes have; and in a
blocking read (R301) the first or the second reset of the poll after the start and `p` busy polls. Only the listed
outputs may change otherwise (R338). The CTRL step counts and the free outputs are the model's (log 1, log 6, log 10). -/
def Obligations.SecondResetFailureAbortsPage : Prop :=
  (∀ (arg : Byte) (i : Instr) (op n : Byte) (outs : Outputs) (s : State),
    (i, op, n, outs) ∈ [(Instr.readPage arg, (0x10 : Byte), arg, ({ data := true } : Outputs)),
      (.hasDataV arg, 0x22, 0, { data := true, ready := true }), (.hasDataT arg, 0x23, 0, { data := true, ready := true }),
      (.getCurrent arg, 0x26, 0, { data := true, curr := true }), (.getCapacity arg, 0x27, 1, { data := true, cap := true }),
      (.enableIAD arg, 0x30, 0, { data := true }), (.disableIAD arg, 0x31, 0, { data := true }),
      (.enableCA arg, 0x32, 0, { data := true }), (.disableCA arg, 0x33, 0, { data := true }),
      (.selectInput arg, 0x34, 0, { data := true })] →
    n.toNat ≤ 7 → IdleFor 114 s → s.line = .free → s.level 0 = false → s.level 1 = true →
    ∃ t, exec i s = .next t
      ∧ t = { aborted (op ++ arg) .deviceNotFound outs s t with
          samples := s.samples.drop 2
          draws := s.draws + 2
          trace := (frameHandshake 0xB8 n ++ frameReset true).reverse ++ s.trace })
  ∧ (∀ (n : Byte) (s : State), n.toNat ≤ 7 → IdleFor 421 s → s.line = .free → s.level 0 = false → s.level 1 = true →
    ∃ t, exec (.writePage n) s = .next t
      ∧ t = { aborted (0x11#8 ++ n) .deviceNotFound {} s t with
          samples := s.samples.drop 2
          draws := s.draws + 2
          trace := (frameHandshake 0x4E n ++ s.data.toList.flatMap frameWriteByte ++ frameReset true).reverse
            ++ s.trace })
  ∧ ∀ (arg : Byte) (i : Instr) (op command : Byte) (bit : Nat) (outs : Outputs) (p : Nat) (s : State),
    (i, op, command, bit, outs) ∈ [(Instr.readVoltage arg, (0x24 : Byte), (0xB4 : Byte), 6,
        ({ data := true, volt := true, ready := true } : Outputs)),
      (.readTemperature arg, 0x25, 0x44, 4, { data := true, temp := true, ready := true })] →
    s.line = .free → s.level 0 = false →
    (∀ j, j < p → s.level (74 * j + 1) = false ∧ s.level (74 * j + 2) = false ∧ s.level (74 * j + 3 + bit) = true) →
    (IdleFor (81 + 736 * p) s → s.level (74 * p + 1) = true →
      ∃ (t : State) (polls : List Page), exec i s = .next t ∧ polls.length = p
        ∧ (∀ j (h : j < polls.length), PageSampled s (74 * j + 3) polls[j])
        ∧ t = { aborted (op ++ arg) .deviceNotFound outs s t with
            samples := s.samples.drop (74 * p + 2)
            draws := s.draws + (74 * p + 2)
            trace := (frameStart command ++ polls.flatMap (frameReadPage 0) ++ frameReset true).reverse ++ s.trace })
    ∧ (IdleFor (187 + 736 * p) s → s.level (74 * p + 1) = false → s.level (74 * p + 2) = true →
      ∃ (t : State) (polls : List Page), exec i s = .next t ∧ polls.length = p
        ∧ (∀ j (h : j < polls.length), PageSampled s (74 * j + 3) polls[j])
        ∧ t = { aborted (op ++ arg) .deviceNotFound outs s t with
            samples := s.samples.drop (74 * p + 3)
            draws := s.draws + (74 * p + 3)
            trace := (frameStart command ++ polls.flatMap (frameReadPage 0) ++ frameHandshake 0xB8 0
              ++ frameReset true).reverse ++ s.trace })

/-! ### Conversions and decoded page reads -/

/-- START_VCONV and START_TCONV complete when the reset finds a device (R291, R293, R294): SkipROM and the convert
command are sent, and nothing else changes. The CTRL step count is the model's (log 1, log 10). -/
def Obligations.StartConversionCompletes : Prop :=
  ∀ (arg : Byte) (i : Instr) (op command : Byte) (s : State),
    (i, op, command) ∈ [(Instr.startVConv arg, (0x20 : Byte), (0xB4 : Byte)), (.startTConv arg, 0x21, 0x44)] →
    IdleFor 74 s → s.line = .free → s.level 0 = false →
    ∃ t, exec i s = .next t
      ∧ t = { completed (op ++ arg) .ok s t with
          present := true
          samples := s.samples.drop 1
          draws := s.draws + 1
          trace := (frameStart command).reverse ++ s.trace }

/-- HAS_DATA_V and HAS_DATA_T complete when both resets find a device (R292, R295 to R297): page 0 is read, and READY
says whether its byte 0 has bit 6, or bit 4, clear; nothing else changes. The CTRL step count is the model's (log 1, log
10). -/
def Obligations.HasDataCompletes : Prop :=
  ∀ (arg : Byte) (i : Instr) (op : Byte) (bit : Nat) (s : State),
    (i, op, bit) ∈ [(Instr.hasDataV arg, (0x22 : Byte), 6), (.hasDataT arg, 0x23, 4)] →
    IdleFor 737 s → s.line = .free → s.level 0 = false → s.level 1 = false →
    ∃ t, exec i s = .next t
      ∧ t = { completed (op ++ arg) .ok s t with
          present := true
          data := t.data
          ready := !(dataByte t.data 0).getLsbD bit
          samples := s.samples.drop 74
          draws := s.draws + 74
          trace := (frameReadPage 0 t.data).reverse ++ s.trace }
      ∧ PageSampled s 2 t.data

/-- READ_VOLTAGE with `p` busy polls before the ready one completes when every reset finds a device (R298, R299): DATA
is the image of the last poll, VOLT its ten-bit count, READY 1, and nothing else changes. The CTRL step count is the
model's (log 1, log 10). -/
def Obligations.ReadVoltageCompletes : Prop :=
  ∀ (arg : Byte) (p : Nat) (s : State), IdleFor (811 + 736 * p) s → s.line = .free → s.level 0 = false →
    (∀ j, j ≤ p → s.level (74 * j + 1) = false ∧ s.level (74 * j + 2) = false) →
    (∀ j, j < p → s.level (74 * j + 3 + 6) = true) → s.level (74 * p + 3 + 6) = false →
    ∃ (t : State) (polls : List Page), exec (.readVoltage arg) s = .next t ∧ polls.length = p
      ∧ t = { completed (0x24#8 ++ arg) .ok s t with
          present := true
          ready := true
          data := t.data
          volt := t.volt
          samples := s.samples.drop (74 * p + 75)
          draws := s.draws + (74 * p + 75)
          trace := (frameStart 0xB4 ++ (polls ++ [t.data]).flatMap (frameReadPage 0)).reverse ++ s.trace }
      ∧ (∀ j (h : j < polls.length), PageSampled s (74 * j + 3) polls[j]) ∧ PageSampled s (74 * p + 3) t.data
      ∧ t.volt.toNat = 256 * ((dataByte t.data 4).toNat % 4) + (dataByte t.data 3).toNat

/-- READ_TEMPERATURE, in the same way (R298, R300): TEMP is the signed count of the last poll's bytes 1 and 2 (R230).
The CTRL step count is the model's (log 1, log 10). -/
def Obligations.ReadTemperatureCompletes : Prop :=
  ∀ (arg : Byte) (p : Nat) (s : State), IdleFor (811 + 736 * p) s → s.line = .free → s.level 0 = false →
    (∀ j, j ≤ p → s.level (74 * j + 1) = false ∧ s.level (74 * j + 2) = false) →
    (∀ j, j < p → s.level (74 * j + 3 + 4) = true) → s.level (74 * p + 3 + 4) = false →
    ∃ (t : State) (polls : List Page), exec (.readTemperature arg) s = .next t ∧ polls.length = p
      ∧ t = { completed (0x25#8 ++ arg) .ok s t with
          present := true
          ready := true
          data := t.data
          temp := t.temp
          samples := s.samples.drop (74 * p + 75)
          draws := s.draws + (74 * p + 75)
          trace := (frameStart 0x44 ++ (polls ++ [t.data]).flatMap (frameReadPage 0)).reverse ++ s.trace }
      ∧ (∀ j (h : j < polls.length), PageSampled s (74 * j + 3) polls[j]) ∧ PageSampled s (74 * p + 3) t.data
      ∧ t.temp.toInt =
        (if (dataByte t.data 2).toNat < 128 then
          32 * ((dataByte t.data 2).toNat : Int) + ((dataByte t.data 1).toNat / 8 : Nat)
        else 32 * ((dataByte t.data 2).toNat - 256 : Int) - ((dataByte t.data 1).toNat / 8 : Nat))

/-- R298 and R344: a blocking read does not finish while the busy bit reads 1: after a start and `p` busy polls, and at
any moment up to then, BUSY is 1 and DONE is 0. The CTRL step counts are the model's (log 1, log 10). -/
def Obligations.PollRunsOnWhileBusy : Prop :=
  ∀ (arg : Byte) (i : Instr) (bit p : Nat) (s : State),
    (i, bit) ∈ [(Instr.readVoltage arg, 6), (.readTemperature arg, 4)] →
    s.rstN = true → s.busy = false → s.gap ≤ 73 + 736 * p → s.line = .free → s.level 0 = false →
    (∀ j, j < p → s.level (74 * j + 1) = false ∧ s.level (74 * j + 2) = false ∧ s.level (74 * j + 3 + bit) = true) →
    ∃ t, exec i s = .next t ∧ t.busy = true ∧ t.done = false ∧ irq t = false

/-- GET_CURRENT completes when both resets find a device (R234, R243): page 0 is read and CURR is the signed magnitude
of its bytes 5 and 6; nothing else changes. The CTRL step count is the model's (log 1, log 10). -/
def Obligations.GetCurrentCompletes : Prop :=
  ∀ (arg : Byte) (s : State), IdleFor 737 s → s.line = .free → s.level 0 = false → s.level 1 = false →
    ∃ t, exec (.getCurrent arg) s = .next t
      ∧ t = { completed (0x26#8 ++ arg) .ok s t with
          present := true
          data := t.data
          curr := t.curr
          samples := s.samples.drop 74
          draws := s.draws + 74
          trace := (frameReadPage 0 t.data).reverse ++ s.trace }
      ∧ PageSampled s 2 t.data
      ∧ t.curr.toInt =
        (if (dataByte t.data 6).toNat < 4 then 1 else -1)
          * ((256 * ((dataByte t.data 6).toNat % 4) + (dataByte t.data 5).toNat : Nat) : Int)

/-- GET_CAPACITY completes when both resets find a device (R236, R244): page 1 is read and CAP is its byte 4; nothing
else changes. The CTRL step count is the model's (log 1, log 10). -/
def Obligations.GetCapacityCompletes : Prop :=
  ∀ (arg : Byte) (s : State), IdleFor 737 s → s.line = .free → s.level 0 = false → s.level 1 = false →
    ∃ t, exec (.getCapacity arg) s = .next t
      ∧ t = { completed (0x27#8 ++ arg) .ok s t with
          present := true
          data := t.data
          cap := dataByte t.data 4
          samples := s.samples.drop 74
          draws := s.draws + 74
          trace := (frameReadPage 1 t.data).reverse ++ s.trace }
      ∧ PageSampled s 2 t.data

/-! ### Decoding the page buffer -/

/-- DECODE_TEMP (R230, R239): TEMP is 32 times the signed byte 2, plus or minus byte 1 shifted right by 3, by the sign
of byte 2; nothing else changes, and no bus activity happens. The CTRL step count is the model's (log 1, log 10). -/
def Obligations.DecodeTempCompletes : Prop :=
  ∀ (arg : Byte) (s : State), IdleFor 2 s →
    ∃ t, exec (.decodeTemp arg) s = .next t ∧ t = { completed (0x40#8 ++ arg) .ok s t with temp := t.temp }
      ∧ t.temp.toInt =
        (if (dataByte s.data 2).toNat < 128 then
          32 * ((dataByte s.data 2).toNat : Int) + ((dataByte s.data 1).toNat / 8 : Nat)
        else 32 * ((dataByte s.data 2).toNat - 256 : Int) - ((dataByte s.data 1).toNat / 8 : Nat))

/-- DECODE_VOLT (R232, R240): VOLT is bits 1:0 of byte 4 above byte 3; nothing else changes. The CTRL step count is the
model's (log 1, log 10). -/
def Obligations.DecodeVoltCompletes : Prop :=
  ∀ (arg : Byte) (s : State), IdleFor 2 s →
    ∃ t, exec (.decodeVolt arg) s = .next t ∧ t = { completed (0x41#8 ++ arg) .ok s t with volt := t.volt }
      ∧ t.volt.toNat = 256 * ((dataByte s.data 4).toNat % 4) + (dataByte s.data 3).toNat

/-- DECODE_CURR (R234, R241): CURR is the magnitude of bits 1:0 of byte 6 above byte 5, negative when any other bit of
byte 6 is set; nothing else changes. The CTRL step count is the model's (log 1, log 10). -/
def Obligations.DecodeCurrCompletes : Prop :=
  ∀ (arg : Byte) (s : State), IdleFor 2 s →
    ∃ t, exec (.decodeCurr arg) s = .next t ∧ t = { completed (0x42#8 ++ arg) .ok s t with curr := t.curr }
      ∧ t.curr.toInt =
        (if (dataByte s.data 6).toNat < 4 then 1 else -1)
          * ((256 * ((dataByte s.data 6).toNat % 4) + (dataByte s.data 5).toNat : Nat) : Int)

/-- DECODE_CAP (R236, R242): CAP is byte 4; nothing else changes. The CTRL step count is the model's (log 1, log 10). -/
def Obligations.DecodeCapCompletes : Prop :=
  ∀ (arg : Byte) (s : State), IdleFor 2 s →
    ∃ t, exec (.decodeCap arg) s = .next t ∧ t = { completed (0x43#8 ++ arg) .ok s t with cap := dataByte s.data 4 }

/-- R245: every count lies in its range, and the register it is written to holds it without truncation. -/
def Obligations.CountsFitTheirRegisters : Prop :=
  ∀ a b : Byte,
    (-4127 ≤ decodeTemperature a b ∧ decodeTemperature a b ≤ 4095
      ∧ (tempRegister (decodeTemperature a b)).toInt = decodeTemperature a b)
    ∧ (decodeVoltage a b ≤ 1023 ∧ (voltRegister (decodeVoltage a b)).toNat = decodeVoltage a b)
    ∧ (-1023 ≤ decodeCurrent a b ∧ decodeCurrent a b ≤ 1023
      ∧ (currRegister (decodeCurrent a b)).toInt = decodeCurrent a b)
    ∧ (decodeCapacity a ≤ 255 ∧ (capRegister (decodeCapacity a)).toNat = decodeCapacity a)

/-! ### Configuration mutators -/

/-- The five mutators complete when all four resets find a device (R270, R272 to R276): page 0 is read as `d` and
written back with byte 0 masked, DATA holds the written image, and nothing else changes. The CTRL step count is the
model's (log 1, log 10). -/
def Obligations.MutatorsComplete : Prop :=
  ∀ (arg : Byte) (i : Instr) (op : Byte) (f : Byte → Byte) (s : State),
    (i, op, f) ∈ [(Instr.enableIAD arg, (0x30 : Byte), fun x : Byte => x ||| 0x01), (.disableIAD arg, 0x31, (· &&& 0xFE)),
      (.enableCA arg, 0x32, (· ||| 0x02)), (.disableCA arg, 0x33, (· &&& 0xFD)),
      (.selectInput arg, 0x34, fun x => if arg.getLsbD 0 then x ||| 0x08 else x &&& 0xF7)] →
    IdleFor 1256 s → s.line = .free →
    s.level 0 = false → s.level 1 = false → s.level 74 = false → s.level 75 = false →
    ∃ (t : State) (d : Page), exec i s = .next t ∧ PageSampled s 2 d
      ∧ t = { completed (op ++ arg) .ok s t with
          present := true
          data := t.data
          samples := s.samples.drop 76
          draws := s.draws + 76
          trace := (frameReadPage 0 d ++ frameWritePage 0 t.data).reverse ++ s.trace }
      ∧ dataByte t.data 0 = f (dataByte d 0) ∧ ∀ k, 1 ≤ k → k < 9 → dataByte t.data k = dataByte d k

/-- R271: a mutator whose page read succeeded and whose page write finds no device, at either of its resets, finishes
with OPERATION_ERROR; the failing reset is its last bus activity, and only DATA, its output, may change otherwise. The
CTRL step counts and the free outputs are the model's (log 1, log 6, log 10). -/
def Obligations.MutatorWriteFailureIsOperationError : Prop :=
  ∀ (arg : Byte) (i : Instr) (op : Byte) (f : Byte → Byte) (s : State),
    (i, op, f) ∈ [(Instr.enableIAD arg, (0x30 : Byte), fun x : Byte => x ||| 0x01), (.disableIAD arg, 0x31, (· &&& 0xFE)),
      (.enableCA arg, 0x32, (· ||| 0x02)), (.disableCA arg, 0x33, (· &&& 0xFD)),
      (.selectInput arg, 0x34, fun x => if arg.getLsbD 0 then x ||| 0x08 else x &&& 0xF7)] →
    s.line = .free → s.level 0 = false → s.level 1 = false →
    (IdleFor 744 s → s.level 74 = true →
      ∃ (t : State) (d : Page), exec i s = .next t ∧ PageSampled s 2 d
        ∧ t = { completed (op ++ arg) .operationError s t with
            present := false
            data := t.data
            samples := s.samples.drop 75
            draws := s.draws + 75
            trace := (frameReadPage 0 d ++ frameReset true).reverse ++ s.trace })
    ∧ (IdleFor 1157 s → s.level 74 = false → s.level 75 = true →
      ∃ (t : State) (d e : Page), exec i s = .next t ∧ PageSampled s 2 d
        ∧ dataByte e 0 = f (dataByte d 0) ∧ (∀ k, 1 ≤ k → k < 9 → dataByte e k = dataByte d k)
        ∧ t = { completed (op ++ arg) .operationError s t with
            present := false
            data := t.data
            samples := s.samples.drop 76
            draws := s.draws + 76
            trace := (frameReadPage 0 d ++ frameHandshake 0x4E 0 ++ e.toList.flatMap frameWriteByte
              ++ frameReset true).reverse ++ s.trace })

/-- R277: each mutator's mask and its argument differ at most in the bit the mutator names, which gets the value the
mutator says. -/
def Obligations.MaskChangesOnlyItsBit : Prop :=
  ∀ (m : Mutation) (bit : Nat) (v : Bool) (x : Byte) (i : Nat),
    (m, bit, v) ∈ [(Mutation.enableIAD, 0, true), (.disableIAD, 0, false), (.enableCA, 1, true), (.disableCA, 1, false),
      (.selectInput true, 3, true), (.selectInput false, 3, false)] →
    i < 8 → (maskByte m x).getLsbD i = if i = bit then v else x.getLsbD i

/-! ### Whole runs -/

/-- R380: every operation but the two blocking reads finishes after a bounded number of primitives, whatever the LINE
answers: from an idle block with 1256 CTRL steps to come, the command is done. The CTRL step count is the model's (log
1, log 10). -/
def Obligations.BoundedOperationsFinish : Prop :=
  ∀ (i : Instr) (s : State), i.isHostCommand = true → (∀ arg, i ≠ .readVoltage arg ∧ i ≠ .readTemperature arg) →
    IdleFor 1256 s →
    ∃ t, exec i s = .next t ∧ t.busy = false ∧ t.done = true ∧ t.seq = [] ∧ t.lineDrive = false ∧ t.busState = .idle
      ∧ t.ie = s.ie ∧ t.ovr = s.ovr ∧ t.inputs = s.inputs

/-- The nominal times of R381 and R382, with T_SLACK = 0. For every timing set, each slot is pulled low at its start, released
and sampled at the instants of R381, and ends at the sum of its waits, of which it has as many as R381 says; under every
legal set both write slots are equally long (R7, R165). At the defaults those are the numbers of R381, and each row of
R382 has its resets, slots and line time, on the frames of R144. The frames name their parameters (log 19), whose
values are whole numbers (log 24). -/
def Obligations.NominalFrameTimes : Prop :=
  (∀ (ts : TimingSet) (v : Bool),
    instants ts 0 (frameReset v) = [(.low, 0), (.release, ts.tRSTL), (.sample v, ts.tRSTL + ts.tMSP)]
    ∧ duration ts (frameReset v) = ts.tRSTL + ts.tMSP + ts.tRSTHRem ∧ waitCount (frameReset v) = 3
    ∧ instants ts 0 (frameWriteBit true) = [(.low, 0), (.release, ts.tW1L)]
    ∧ duration ts (frameWriteBit true) = ts.tW1L + ts.tW1R ∧ waitCount (frameWriteBit true) = 2
    ∧ instants ts 0 (frameWriteBit false) = [(.low, 0), (.release, ts.tW0L)]
    ∧ duration ts (frameWriteBit false) = ts.tW0L + ts.tRec ∧ waitCount (frameWriteBit false) = 2
    ∧ instants ts 0 (frameReadBit v) = [(.low, 0), (.release, ts.tRL), (.sample v, ts.tRL + ts.tRDV)]
    ∧ duration ts (frameReadBit v) = ts.tRL + ts.tRDV + ts.tRRec ∧ waitCount (frameReadBit v) = 3
    ∧ ∀ slack : Nat, ts.legal slack = true → duration ts (frameWriteBit true) = duration ts (frameWriteBit false))
  ∧ (∀ v, instants .default 0 (frameReset v) = [(.low, 0), (.release, 480), (.sample v, 540)]
    ∧ instants .default 0 (frameWriteBit true) = [(.low, 0), (.release, 6)]
    ∧ instants .default 0 (frameWriteBit false) = [(.low, 0), (.release, 60)]
    ∧ instants .default 0 (frameReadBit v) = [(.low, 0), (.release, 6), (.sample v, 15)])
  ∧ (∀ (f : List Event) (resets slots micros : Nat),
    ((∃ v, f = frameReset v) ∧ (resets, slots, micros) = (1, 0, 960)
      ∨ (∃ b, f = frameWriteBit b ∨ f = frameReadBit b) ∧ (resets, slots, micros) = (0, 1, 70)
      ∨ (∃ x, f = frameWriteByte x ∨ f = frameReadByte x) ∧ (resets, slots, micros) = (0, 8, 560)
      ∨ (∃ n d, f = frameReadPage n d ∨ f = frameWritePage n d) ∧ (resets, slots, micros) = (2, 120, 10320)
      ∨ (∃ c, f = frameStart c) ∧ (resets, slots, micros) = (1, 16, 2080)
      ∨ (∃ d e, f = frameReadPage 0 d ++ frameWritePage 0 e) ∧ (resets, slots, micros) = (4, 240, 20640)
      ∨ (∃ c p, ∃ polls : List Page, polls.length = p ∧ f = frameStart c ++ polls.flatMap (frameReadPage 0)
        ∧ (resets, slots, micros) = (1 + 2 * p, 16 + 120 * p, 2080 + 10320 * p))
      ∨ f = [] ∧ (resets, slots, micros) = (0, 0, 0)) →
    resetCount f = resets ∧ slotCount f = slots ∧ duration .default f = micros)

/-- R208, with the reference device at the pin: WRITE_PAGE n followed by READ_PAGE n gives DATA back unchanged, for
every page 0 to 7, when the written byte 0 of page 0 has no busy bit set, which a read would otherwise update (R119). The
device's memories are in canonical form (log 5). The device's events, what it does at a bus reset with a byte partly
written, and the CTRL step counts are the model's (log 1, log 4, log 10, log 26). -/
def Obligations.ReferenceDeviceRoundTrip : Prop :=
  ∀ (n : Byte) (s : State) (v w : Word) (g h : Nat) (rest : List (Input × Nat)),
    n.toNat ≤ 7 → s.rstN = true → s.busy = false → s.line = .reference → s.dev.present = true →
    s.dev.mem.wf = true → s.dev.sp.wf = true →
    (n = 0 → (dataByte s.data 0).getLsbD 4 = false ∧ (dataByte s.data 0).getLsbD 6 = false) →
    v.setWidth 16 = 0x11#8 ++ n → w.setWidth 16 = 0x10#8 ++ n → 520 ≤ g → 736 ≤ h →
    s.inputs = (writeAccess 0 v, g) :: (writeAccess 0 w, h) :: rest →
    ∃ t u, step s = .next t ∧ step t = .next u
      ∧ t.result = .ok ∧ t.done = true ∧ u.result = .ok ∧ u.done = true ∧ u.data = s.data ∧ u.inputs = rest
      ∧ ∀ k, k < 9 → u.dev.mem.pageByte n.toNat k = dataByte s.data k
end

