-- ==== Sys2Proof/Laws/Encoding.lean ====
section
/-! SUPPORT. The laws of the encoding: the two fields of a word, the rows of the opcode map, and what the decoder finds. -/

namespace Sys2Proof

theorem cmdWord_eq (op arg : Byte) : cmdWord op arg = op ++ arg := rfl

@[simp] theorem opField_cmdWord (op arg : Byte) : opField (cmdWord op arg) = op := by
  apply BitVec.eq_of_getLsbD_eq
  intro i hi
  have h := BitVec.getLsbD_append (x := op) (y := arg) (i := 8 + i)
  rw [if_neg (by omega)] at h
  simp only [opField, BitVec.getLsbD_extractLsb', hi, decide_true, Bool.true_and]
  exact h.trans (by simp)

@[simp] theorem argField_cmdWord (op arg : Byte) : argField (cmdWord op arg) = arg := by
  apply BitVec.eq_of_getLsbD_eq
  intro i hi
  have h := BitVec.getLsbD_append (x := op) (y := arg) (i := 0 + i)
  rw [if_pos (by omega)] at h
  simp only [argField, BitVec.getLsbD_extractLsb', hi, decide_true, Bool.true_and]
  exact h.trans (by simp)

/-- A word is its two fields (R130). -/
theorem cmdWord_fields (w : CmdWord) : cmdWord (opField w) (argField w) = w := by
  apply BitVec.eq_of_getLsbD_eq
  intro i hi
  rw [cmdWord, BitVec.getLsbD_append]
  by_cases h : i < 8
  · simp [h, argField]
  · simp [h, opField, show i - 8 < 8 by omega, show 8 + (i - 8) = i by omega]

theorem toNat_cmdWord (op arg : Byte) : (cmdWord op arg).toNat = 256 * op.toNat + arg.toNat := by
  rw [cmdWord, BitVec.toNat_append, ← Nat.shiftLeft_add_eq_or_of_lt arg.isLt, Nat.shiftLeft_eq]
  omega

/-- What the decoder answers for a word given by its fields. -/
theorem decode_cmdWord (op arg : Byte) :
    decode (cmdWord op arg) =
      match hostRows.find? (fun r => r.op == op) with
      | some r => .instr (r.make arg)
      | none => .illegal op := by
  cases hf : hostRows.find? (fun r => r.op == op) <;> simp [decode, hf]

/-- A property of every row of the opcode map, shown row by row. -/
theorem hostRows_cases {P : HostRow → Prop} (h : hostRows.Forall P) : ∀ r ∈ hostRows, P r :=
  List.forall_iff_forall_mem.1 h

/-- Each row of the map makes a host command. -/
theorem isHostCommand_of_row : ∀ r ∈ hostRows, ∀ arg, (r.make arg).isHostCommand = true :=
  hostRows_cases (by simp [hostRows, Instr.isHostCommand, Instr.isWireCommand])

/-- A word that decodes to an instruction decodes to a host command (30_encoding.md section 3). -/
theorem isHostCommand_of_decode {w : CmdWord} {i : Instr} (h : decode w = .instr i) : i.isHostCommand = true := by
  rw [← cmdWord_fields w, decode_cmdWord] at h
  cases hf : hostRows.find? (fun r => r.op == opField w) with
  | none => rw [hf] at h; simp at h
  | some r =>
    rw [hf] at h
    have hm := isHostCommand_of_row r (List.mem_of_find?_eq_some hf) (argField w)
    simp at h
    rwa [h] at hm

/-- A wire byte that decodes, decodes to a wire command. -/
theorem isWireCommand_of_decodeWire {x : Byte} {i : Instr} (h : decodeWire x = some i) : i.isWireCommand = true := by
  rw [decodeWire, Option.map_eq_some_iff] at h
  obtain ⟨r, hr, rfl⟩ := h
  exact (List.forall_iff_forall_mem.1 (by simp [wireRows, Instr.isWireCommand] :
    wireRows.Forall fun r => r.2.isWireCommand = true)) r (List.mem_of_find?_eq_some hr)

end Sys2Proof
end

