-- ==== Sys2Proof/Laws/Memory.lean ====
section
/-! SUPPORT. The laws of memory: reading after writing, and the canonical form kept by every memory operation. -/

namespace Sys2Proof.Machine

theorem Memory.read_below {lo : Nat} {m : Memory} (h : m.wfFrom lo = true) {a : Nat} (ha : a < lo) :
    m.read a = Memory.unlisted := by
  induction m generalizing lo with
  | nil => rfl
  | cons c rest ih =>
    obtain ⟨b, x⟩ := c
    simp [Memory.wfFrom] at h
    have hne : b ≠ a := by omega
    simp only [Memory.read, hne, if_false]
    exact ih h.2 (by omega)

theorem Memory.wfFrom_mono {lo lo' : Nat} {m : Memory} (h : m.wfFrom lo = true) (hl : lo' ≤ lo) :
    m.wfFrom lo' = true := by
  cases m with
  | nil => rfl
  | cons c rest =>
    obtain ⟨b, x⟩ := c
    simp [Memory.wfFrom] at h ⊢
    exact ⟨⟨by omega, h.1.2⟩, h.2⟩

theorem Memory.wfFrom_write {lo a : Nat} {m : Memory} {v : Byte} (h : m.wfFrom lo = true) (ha : lo ≤ a) :
    (m.write a v).wfFrom lo = true := by
  induction m generalizing lo with
  | nil => by_cases hv : v = Memory.unlisted <;> simp [Memory.write, Memory.wfFrom, hv, ha]
  | cons c rest ih =>
    obtain ⟨b, x⟩ := c
    simp [Memory.wfFrom] at h
    have hb : Memory.wfFrom lo ((b, x) :: rest) = true := by simp [Memory.wfFrom, h]
    by_cases hv : v = Memory.unlisted
    · by_cases h1 : a < b
      · simpa [Memory.write, h1, hv] using hb
      · by_cases h2 : a = b
        · simpa [Memory.write, h2, hv] using Memory.wfFrom_mono h.2 (by omega)
        · simp only [Memory.write, h1, h2, if_false]
          simp [Memory.wfFrom, h.1.1, h.1.2, ih h.2 (by omega : b + 1 ≤ a)]
    · by_cases h1 : a < b
      · simp only [Memory.write, h1, hv, if_true, if_false]
        simp [Memory.wfFrom, ha, hv, h.1.2, h.2]
        omega
      · by_cases h2 : a = b
        · subst h2
          simp [Memory.write, hv, Memory.wfFrom, ha, h.2]
        · simp only [Memory.write, h1, h2, if_false]
          simp [Memory.wfFrom, h.1.1, h.1.2, ih h.2 (by omega : b + 1 ≤ a)]

/-- Writing keeps the canonical form. -/
theorem Memory.wf_write {m : Memory} (h : m.wf = true) (a : Nat) (v : Byte) : (m.write a v).wf = true :=
  Memory.wfFrom_write h (Nat.zero_le _)

/-- Reading the address just written. -/
theorem Memory.read_write_same {lo : Nat} {m : Memory} (h : m.wfFrom lo = true) (a : Nat) (v : Byte) :
    (m.write a v).read a = v := by
  induction m generalizing lo with
  | nil => by_cases hv : v = Memory.unlisted <;> simp [Memory.write, Memory.read, hv]
  | cons c rest ih =>
    obtain ⟨b, x⟩ := c
    simp [Memory.wfFrom] at h
    by_cases h1 : a < b
    · by_cases hv : v = Memory.unlisted
      · have hne : b ≠ a := by omega
        simp [Memory.write, h1, hv, Memory.read, hne, Memory.read_below h.2 (by omega : a < b + 1)]
      · simp [Memory.write, h1, hv, Memory.read]
    · by_cases h2 : a = b
      · subst h2
        by_cases hv : v = Memory.unlisted
        · simp [Memory.write, hv, Memory.read_below h.2 (Nat.lt_succ_self a)]
        · simp [Memory.write, hv, Memory.read]
      · have hne : b ≠ a := by omega
        simp only [Memory.write, h1, h2, if_false, Memory.read, hne]
        exact ih h.2

/-- Writing leaves every other address alone. -/
theorem Memory.read_write_other {lo : Nat} {m : Memory} (h : m.wfFrom lo = true) {a a' : Nat} (ha : a' ≠ a) (v : Byte) :
    (m.write a v).read a' = m.read a' := by
  induction m generalizing lo with
  | nil => by_cases hv : v = Memory.unlisted <;> simp [Memory.write, Memory.read, hv, ha.symm]
  | cons c rest ih =>
    obtain ⟨b, x⟩ := c
    simp [Memory.wfFrom] at h
    by_cases h1 : a < b
    · by_cases hv : v = Memory.unlisted <;> simp [Memory.write, h1, hv, Memory.read, ha.symm]
    · by_cases h2 : a = b
      · subst h2
        by_cases hv : v = Memory.unlisted <;> simp [Memory.write, hv, Memory.read, ha.symm]
      · simp only [Memory.write, h1, h2, if_false, Memory.read]
        rw [ih h.2]

theorem Memory.wf_setPageByte {m : Memory} (h : m.wf = true) (n k : Nat) (v : Byte) : (m.setPageByte n k v).wf = true :=
  Memory.wf_write h _ _

theorem pageAddr_inj {n n' k k' : Nat} (hk : k < 9) (hk' : k' < 9) (h : pageAddr n k = pageAddr n' k') : n = n' ∧ k = k' := by
  simp [pageAddr, Config.pageBytes] at h
  omega

/-- Reading a page byte after storing one. -/
theorem Memory.pageByte_setPageByte {m : Memory} (h : m.wf = true) {n n' k k' : Nat} (hk : k < 9) (hk' : k' < 9) (v : Byte) :
    (m.setPageByte n k v).pageByte n' k' = if n' = n ∧ k' = k then v else m.pageByte n' k' := by
  by_cases hc : n' = n ∧ k' = k
  · obtain ⟨rfl, rfl⟩ := hc
    rw [if_pos ⟨rfl, rfl⟩]
    exact Memory.read_write_same h _ v
  · rw [if_neg hc]
    exact Memory.read_write_other h (fun e => hc (pageAddr_inj hk' hk e)) v

theorem Memory.wf_copyPage {dst : Memory} (h : dst.wf = true) (src : Memory) (n c : Nat) :
    (Memory.copyPage dst src n c).wf = true := by
  induction c with
  | zero => exact h
  | succ c ih => exact Memory.wf_setPageByte ih _ _ _

/-- Copying a page replaces its bytes and no others. -/
theorem Memory.pageByte_copyPage {dst : Memory} (h : dst.wf = true) (src : Memory) (n : Nat) {c : Nat} (hc : c ≤ 9)
    {n' k : Nat} (hk : k < 9) :
    (Memory.copyPage dst src n c).pageByte n' k = if n' = n ∧ k < c then src.pageByte n' k else dst.pageByte n' k := by
  induction c with
  | zero => simp [Memory.copyPage]
  | succ c ih =>
    rw [Memory.copyPage, Memory.pageByte_setPageByte (Memory.wf_copyPage h src n c) (by omega) hk, ih (by omega)]
    by_cases hn : n' = n
    · subst hn
      by_cases hkc : k = c
      · subst hkc
        simp
      · have : k < c + 1 ↔ k < c := by omega
        simp [hkc, this]
    · simp [hn]

theorem Memory.wf_setBytes {m : Memory} (h : m.wf = true) (n k : Nat) (bs : List Byte) :
    (m.setBytes n k bs).wf = true := by
  induction bs generalizing m k with
  | nil => exact h
  | cons b bs ih => exact ih (Memory.wf_setPageByte h _ _ _) _

/-- Reading a page after bytes were stored in it. -/
theorem Memory.pageByte_setBytes {m : Memory} (h : m.wf = true) (n : Nat) {k : Nat} (bs : List Byte) (hk : k + bs.length ≤ 9)
    {j : Nat} (hj : j < 9) :
    (m.setBytes n k bs).pageByte n j = if k ≤ j ∧ j < k + bs.length then bs.getD (j - k) 0 else m.pageByte n j := by
  induction bs generalizing m k with
  | nil => simp [Memory.setBytes]
  | cons b bs ih =>
    simp at hk
    rw [Memory.setBytes, ih (Memory.wf_setPageByte h _ _ _) (by omega), Memory.pageByte_setPageByte h (by omega) hj]
    by_cases h1 : j = k
    · subst h1
      simp
    · by_cases h2 : k + 1 ≤ j ∧ j < k + 1 + bs.length
      · rw [if_pos h2, if_pos (by simp; omega), show j - k = (j - (k + 1)) + 1 by omega]
        rfl
      · rw [if_neg h2, if_neg (by omega), if_neg (by simp; omega)]

/-- The memory of a device configuration is in canonical form. -/
theorem Memory.wf_ofPages (l : List (Nat × Page)) : (Memory.ofPages l).wf = true := by
  induction l with
  | nil => rfl
  | cons c rest ih => exact Memory.wf_setBytes ih _ _ _

/-- A listed page of a device configuration holds its bytes (R122). -/
theorem Memory.pageByte_ofPages (n : Nat) (p : Page) (rest : List (Nat × Page)) {k : Nat} (hk : k < 9) :
    (Memory.ofPages ((n, p) :: rest)).pageByte n k = p.toList.getD k 0 := by
  rw [Memory.ofPages, Memory.pageByte_setBytes (Memory.wf_ofPages rest) n _ (by simp) hk, if_pos (by simp; omega)]
  rfl

end Sys2Proof.Machine
end

