-- ==== Sys2Proof/Laws/State.lean ====
section
/-! SUPPORT. One lemma per field per named update of the state, each true by rfl. -/

namespace Sys2Proof.Machine

variable (s : State)

@[simp] theorem State.emit_rstN (e : Event) : (s.emit e).rstN = s.rstN := rfl
@[simp] theorem State.emit_cmd (e : Event) : (s.emit e).cmd = s.cmd := rfl
@[simp] theorem State.emit_busy (e : Event) : (s.emit e).busy = s.busy := rfl
@[simp] theorem State.emit_done (e : Event) : (s.emit e).done = s.done := rfl
@[simp] theorem State.emit_result (e : Event) : (s.emit e).result = s.result := rfl
@[simp] theorem State.emit_present (e : Event) : (s.emit e).present = s.present := rfl
@[simp] theorem State.emit_ready (e : Event) : (s.emit e).ready = s.ready := rfl
@[simp] theorem State.emit_ovr (e : Event) : (s.emit e).ovr = s.ovr := rfl
@[simp] theorem State.emit_busState (e : Event) : (s.emit e).busState = s.busState := rfl
@[simp] theorem State.emit_ie (e : Event) : (s.emit e).ie = s.ie := rfl
@[simp] theorem State.emit_rxdata (e : Event) : (s.emit e).rxdata = s.rxdata := rfl
@[simp] theorem State.emit_data (e : Event) : (s.emit e).data = s.data := rfl
@[simp] theorem State.emit_temp (e : Event) : (s.emit e).temp = s.temp := rfl
@[simp] theorem State.emit_volt (e : Event) : (s.emit e).volt = s.volt := rfl
@[simp] theorem State.emit_curr (e : Event) : (s.emit e).curr = s.curr := rfl
@[simp] theorem State.emit_cap (e : Event) : (s.emit e).cap = s.cap := rfl
@[simp] theorem State.emit_opl (e : Event) : (s.emit e).opl = s.opl := rfl
@[simp] theorem State.emit_argl (e : Event) : (s.emit e).argl = s.argl := rfl
@[simp] theorem State.emit_seq (e : Event) : (s.emit e).seq = s.seq := rfl
@[simp] theorem State.emit_lineDrive (e : Event) : (s.emit e).lineDrive = s.lineDrive := rfl
@[simp] theorem State.emit_slot (e : Event) : (s.emit e).slot = s.slot := rfl
@[simp] theorem State.emit_shift (e : Event) : (s.emit e).shift = s.shift := rfl
@[simp] theorem State.emit_byteCnt (e : Event) : (s.emit e).byteCnt = s.byteCnt := rfl
@[simp] theorem State.emit_vbit (e : Event) : (s.emit e).vbit = s.vbit := rfl
@[simp] theorem State.emit_resp (e : Event) : (s.emit e).resp = s.resp := rfl
@[simp] theorem State.emit_inputs (e : Event) : (s.emit e).inputs = s.inputs := rfl
@[simp] theorem State.emit_gap (e : Event) : (s.emit e).gap = s.gap := rfl
@[simp] theorem State.emit_line (e : Event) : (s.emit e).line = s.line := rfl
@[simp] theorem State.emit_samples (e : Event) : (s.emit e).samples = s.samples := rfl
@[simp] theorem State.emit_draws (e : Event) : (s.emit e).draws = s.draws := rfl
@[simp] theorem State.emit_epoch (e : Event) : (s.emit e).epoch = s.epoch := rfl
@[simp] theorem State.emit_dev (e : Event) : (s.emit e).dev = s.dev := rfl
@[simp] theorem State.emit_trace (e : Event) : (s.emit e).trace = e :: s.trace := rfl

@[simp] theorem State.lineLow_rstN (b : BusState) : (s.lineLow b).rstN = s.rstN := rfl
@[simp] theorem State.lineLow_cmd (b : BusState) : (s.lineLow b).cmd = s.cmd := rfl
@[simp] theorem State.lineLow_busy (b : BusState) : (s.lineLow b).busy = s.busy := rfl
@[simp] theorem State.lineLow_done (b : BusState) : (s.lineLow b).done = s.done := rfl
@[simp] theorem State.lineLow_result (b : BusState) : (s.lineLow b).result = s.result := rfl
@[simp] theorem State.lineLow_present (b : BusState) : (s.lineLow b).present = s.present := rfl
@[simp] theorem State.lineLow_ready (b : BusState) : (s.lineLow b).ready = s.ready := rfl
@[simp] theorem State.lineLow_ovr (b : BusState) : (s.lineLow b).ovr = s.ovr := rfl
@[simp] theorem State.lineLow_busState (b : BusState) : (s.lineLow b).busState = b := rfl
@[simp] theorem State.lineLow_ie (b : BusState) : (s.lineLow b).ie = s.ie := rfl
@[simp] theorem State.lineLow_rxdata (b : BusState) : (s.lineLow b).rxdata = s.rxdata := rfl
@[simp] theorem State.lineLow_data (b : BusState) : (s.lineLow b).data = s.data := rfl
@[simp] theorem State.lineLow_temp (b : BusState) : (s.lineLow b).temp = s.temp := rfl
@[simp] theorem State.lineLow_volt (b : BusState) : (s.lineLow b).volt = s.volt := rfl
@[simp] theorem State.lineLow_curr (b : BusState) : (s.lineLow b).curr = s.curr := rfl
@[simp] theorem State.lineLow_cap (b : BusState) : (s.lineLow b).cap = s.cap := rfl
@[simp] theorem State.lineLow_opl (b : BusState) : (s.lineLow b).opl = s.opl := rfl
@[simp] theorem State.lineLow_argl (b : BusState) : (s.lineLow b).argl = s.argl := rfl
@[simp] theorem State.lineLow_seq (b : BusState) : (s.lineLow b).seq = s.seq := rfl
@[simp] theorem State.lineLow_lineDrive (b : BusState) : (s.lineLow b).lineDrive = true := rfl
@[simp] theorem State.lineLow_slot (b : BusState) : (s.lineLow b).slot = s.slot := rfl
@[simp] theorem State.lineLow_shift (b : BusState) : (s.lineLow b).shift = s.shift := rfl
@[simp] theorem State.lineLow_byteCnt (b : BusState) : (s.lineLow b).byteCnt = s.byteCnt := rfl
@[simp] theorem State.lineLow_vbit (b : BusState) : (s.lineLow b).vbit = s.vbit := rfl
@[simp] theorem State.lineLow_resp (b : BusState) : (s.lineLow b).resp = s.resp := rfl
@[simp] theorem State.lineLow_inputs (b : BusState) : (s.lineLow b).inputs = s.inputs := rfl
@[simp] theorem State.lineLow_gap (b : BusState) : (s.lineLow b).gap = s.gap := rfl
@[simp] theorem State.lineLow_line (b : BusState) : (s.lineLow b).line = s.line := rfl
@[simp] theorem State.lineLow_samples (b : BusState) : (s.lineLow b).samples = s.samples := rfl
@[simp] theorem State.lineLow_draws (b : BusState) : (s.lineLow b).draws = s.draws := rfl
@[simp] theorem State.lineLow_epoch (b : BusState) : (s.lineLow b).epoch = s.epoch := rfl
@[simp] theorem State.lineLow_dev (b : BusState) : (s.lineLow b).dev = s.dev := rfl
@[simp] theorem State.lineLow_trace (b : BusState) : (s.lineLow b).trace = .low :: s.trace := rfl

@[simp] theorem State.lineRelease_rstN : (s.lineRelease).rstN = s.rstN := rfl
@[simp] theorem State.lineRelease_cmd : (s.lineRelease).cmd = s.cmd := rfl
@[simp] theorem State.lineRelease_busy : (s.lineRelease).busy = s.busy := rfl
@[simp] theorem State.lineRelease_done : (s.lineRelease).done = s.done := rfl
@[simp] theorem State.lineRelease_result : (s.lineRelease).result = s.result := rfl
@[simp] theorem State.lineRelease_present : (s.lineRelease).present = s.present := rfl
@[simp] theorem State.lineRelease_ready : (s.lineRelease).ready = s.ready := rfl
@[simp] theorem State.lineRelease_ovr : (s.lineRelease).ovr = s.ovr := rfl
@[simp] theorem State.lineRelease_busState : (s.lineRelease).busState = s.busState := rfl
@[simp] theorem State.lineRelease_ie : (s.lineRelease).ie = s.ie := rfl
@[simp] theorem State.lineRelease_rxdata : (s.lineRelease).rxdata = s.rxdata := rfl
@[simp] theorem State.lineRelease_data : (s.lineRelease).data = s.data := rfl
@[simp] theorem State.lineRelease_temp : (s.lineRelease).temp = s.temp := rfl
@[simp] theorem State.lineRelease_volt : (s.lineRelease).volt = s.volt := rfl
@[simp] theorem State.lineRelease_curr : (s.lineRelease).curr = s.curr := rfl
@[simp] theorem State.lineRelease_cap : (s.lineRelease).cap = s.cap := rfl
@[simp] theorem State.lineRelease_opl : (s.lineRelease).opl = s.opl := rfl
@[simp] theorem State.lineRelease_argl : (s.lineRelease).argl = s.argl := rfl
@[simp] theorem State.lineRelease_seq : (s.lineRelease).seq = s.seq := rfl
@[simp] theorem State.lineRelease_lineDrive : (s.lineRelease).lineDrive = false := rfl
@[simp] theorem State.lineRelease_slot : (s.lineRelease).slot = s.slot := rfl
@[simp] theorem State.lineRelease_shift : (s.lineRelease).shift = s.shift := rfl
@[simp] theorem State.lineRelease_byteCnt : (s.lineRelease).byteCnt = s.byteCnt := rfl
@[simp] theorem State.lineRelease_vbit : (s.lineRelease).vbit = s.vbit := rfl
@[simp] theorem State.lineRelease_resp : (s.lineRelease).resp = s.resp := rfl
@[simp] theorem State.lineRelease_inputs : (s.lineRelease).inputs = s.inputs := rfl
@[simp] theorem State.lineRelease_gap : (s.lineRelease).gap = s.gap := rfl
@[simp] theorem State.lineRelease_line : (s.lineRelease).line = s.line := rfl
@[simp] theorem State.lineRelease_samples : (s.lineRelease).samples = s.samples := rfl
@[simp] theorem State.lineRelease_draws : (s.lineRelease).draws = s.draws := rfl
@[simp] theorem State.lineRelease_epoch : (s.lineRelease).epoch = s.epoch := rfl
@[simp] theorem State.lineRelease_dev : (s.lineRelease).dev = s.dev := rfl
@[simp] theorem State.lineRelease_trace : (s.lineRelease).trace = .release :: s.trace := rfl

@[simp] theorem State.waitFor_rstN (t : TimeParam) : (s.waitFor t).rstN = s.rstN := rfl
@[simp] theorem State.waitFor_cmd (t : TimeParam) : (s.waitFor t).cmd = s.cmd := rfl
@[simp] theorem State.waitFor_busy (t : TimeParam) : (s.waitFor t).busy = s.busy := rfl
@[simp] theorem State.waitFor_done (t : TimeParam) : (s.waitFor t).done = s.done := rfl
@[simp] theorem State.waitFor_result (t : TimeParam) : (s.waitFor t).result = s.result := rfl
@[simp] theorem State.waitFor_present (t : TimeParam) : (s.waitFor t).present = s.present := rfl
@[simp] theorem State.waitFor_ready (t : TimeParam) : (s.waitFor t).ready = s.ready := rfl
@[simp] theorem State.waitFor_ovr (t : TimeParam) : (s.waitFor t).ovr = s.ovr := rfl
@[simp] theorem State.waitFor_busState (t : TimeParam) : (s.waitFor t).busState = s.busState := rfl
@[simp] theorem State.waitFor_ie (t : TimeParam) : (s.waitFor t).ie = s.ie := rfl
@[simp] theorem State.waitFor_rxdata (t : TimeParam) : (s.waitFor t).rxdata = s.rxdata := rfl
@[simp] theorem State.waitFor_data (t : TimeParam) : (s.waitFor t).data = s.data := rfl
@[simp] theorem State.waitFor_temp (t : TimeParam) : (s.waitFor t).temp = s.temp := rfl
@[simp] theorem State.waitFor_volt (t : TimeParam) : (s.waitFor t).volt = s.volt := rfl
@[simp] theorem State.waitFor_curr (t : TimeParam) : (s.waitFor t).curr = s.curr := rfl
@[simp] theorem State.waitFor_cap (t : TimeParam) : (s.waitFor t).cap = s.cap := rfl
@[simp] theorem State.waitFor_opl (t : TimeParam) : (s.waitFor t).opl = s.opl := rfl
@[simp] theorem State.waitFor_argl (t : TimeParam) : (s.waitFor t).argl = s.argl := rfl
@[simp] theorem State.waitFor_seq (t : TimeParam) : (s.waitFor t).seq = s.seq := rfl
@[simp] theorem State.waitFor_lineDrive (t : TimeParam) : (s.waitFor t).lineDrive = s.lineDrive := rfl
@[simp] theorem State.waitFor_slot (t : TimeParam) : (s.waitFor t).slot = s.slot := rfl
@[simp] theorem State.waitFor_shift (t : TimeParam) : (s.waitFor t).shift = s.shift := rfl
@[simp] theorem State.waitFor_byteCnt (t : TimeParam) : (s.waitFor t).byteCnt = s.byteCnt := rfl
@[simp] theorem State.waitFor_vbit (t : TimeParam) : (s.waitFor t).vbit = s.vbit := rfl
@[simp] theorem State.waitFor_resp (t : TimeParam) : (s.waitFor t).resp = s.resp := rfl
@[simp] theorem State.waitFor_inputs (t : TimeParam) : (s.waitFor t).inputs = s.inputs := rfl
@[simp] theorem State.waitFor_gap (t : TimeParam) : (s.waitFor t).gap = s.gap := rfl
@[simp] theorem State.waitFor_line (t : TimeParam) : (s.waitFor t).line = s.line := rfl
@[simp] theorem State.waitFor_samples (t : TimeParam) : (s.waitFor t).samples = s.samples := rfl
@[simp] theorem State.waitFor_draws (t : TimeParam) : (s.waitFor t).draws = s.draws := rfl
@[simp] theorem State.waitFor_epoch (t : TimeParam) : (s.waitFor t).epoch = s.epoch := rfl
@[simp] theorem State.waitFor_dev (t : TimeParam) : (s.waitFor t).dev = s.dev := rfl
@[simp] theorem State.waitFor_trace (t : TimeParam) : (s.waitFor t).trace = .wait t :: s.trace := rfl

@[simp] theorem State.pop_rstN (r : List Micro) : (s.pop r).rstN = s.rstN := rfl
@[simp] theorem State.pop_cmd (r : List Micro) : (s.pop r).cmd = s.cmd := rfl
@[simp] theorem State.pop_busy (r : List Micro) : (s.pop r).busy = s.busy := rfl
@[simp] theorem State.pop_done (r : List Micro) : (s.pop r).done = s.done := rfl
@[simp] theorem State.pop_result (r : List Micro) : (s.pop r).result = s.result := rfl
@[simp] theorem State.pop_present (r : List Micro) : (s.pop r).present = s.present := rfl
@[simp] theorem State.pop_ready (r : List Micro) : (s.pop r).ready = s.ready := rfl
@[simp] theorem State.pop_ovr (r : List Micro) : (s.pop r).ovr = s.ovr := rfl
@[simp] theorem State.pop_busState (r : List Micro) : (s.pop r).busState = s.busState := rfl
@[simp] theorem State.pop_ie (r : List Micro) : (s.pop r).ie = s.ie := rfl
@[simp] theorem State.pop_rxdata (r : List Micro) : (s.pop r).rxdata = s.rxdata := rfl
@[simp] theorem State.pop_data (r : List Micro) : (s.pop r).data = s.data := rfl
@[simp] theorem State.pop_temp (r : List Micro) : (s.pop r).temp = s.temp := rfl
@[simp] theorem State.pop_volt (r : List Micro) : (s.pop r).volt = s.volt := rfl
@[simp] theorem State.pop_curr (r : List Micro) : (s.pop r).curr = s.curr := rfl
@[simp] theorem State.pop_cap (r : List Micro) : (s.pop r).cap = s.cap := rfl
@[simp] theorem State.pop_opl (r : List Micro) : (s.pop r).opl = s.opl := rfl
@[simp] theorem State.pop_argl (r : List Micro) : (s.pop r).argl = s.argl := rfl
@[simp] theorem State.pop_seq (r : List Micro) : (s.pop r).seq = r := rfl
@[simp] theorem State.pop_lineDrive (r : List Micro) : (s.pop r).lineDrive = s.lineDrive := rfl
@[simp] theorem State.pop_slot (r : List Micro) : (s.pop r).slot = s.slot := rfl
@[simp] theorem State.pop_shift (r : List Micro) : (s.pop r).shift = s.shift := rfl
@[simp] theorem State.pop_byteCnt (r : List Micro) : (s.pop r).byteCnt = s.byteCnt := rfl
@[simp] theorem State.pop_vbit (r : List Micro) : (s.pop r).vbit = s.vbit := rfl
@[simp] theorem State.pop_resp (r : List Micro) : (s.pop r).resp = s.resp := rfl
@[simp] theorem State.pop_inputs (r : List Micro) : (s.pop r).inputs = s.inputs := rfl
@[simp] theorem State.pop_gap (r : List Micro) : (s.pop r).gap = s.gap := rfl
@[simp] theorem State.pop_line (r : List Micro) : (s.pop r).line = s.line := rfl
@[simp] theorem State.pop_samples (r : List Micro) : (s.pop r).samples = s.samples := rfl
@[simp] theorem State.pop_draws (r : List Micro) : (s.pop r).draws = s.draws := rfl
@[simp] theorem State.pop_epoch (r : List Micro) : (s.pop r).epoch = s.epoch + 1 := rfl
@[simp] theorem State.pop_dev (r : List Micro) : (s.pop r).dev = s.dev := rfl
@[simp] theorem State.pop_trace (r : List Micro) : (s.pop r).trace = s.trace := rfl

@[simp] theorem State.respond_rstN (r : HostResponse) : (s.respond r).rstN = s.rstN := rfl
@[simp] theorem State.respond_cmd (r : HostResponse) : (s.respond r).cmd = s.cmd := rfl
@[simp] theorem State.respond_busy (r : HostResponse) : (s.respond r).busy = s.busy := rfl
@[simp] theorem State.respond_done (r : HostResponse) : (s.respond r).done = s.done := rfl
@[simp] theorem State.respond_result (r : HostResponse) : (s.respond r).result = s.result := rfl
@[simp] theorem State.respond_present (r : HostResponse) : (s.respond r).present = s.present := rfl
@[simp] theorem State.respond_ready (r : HostResponse) : (s.respond r).ready = s.ready := rfl
@[simp] theorem State.respond_ovr (r : HostResponse) : (s.respond r).ovr = s.ovr := rfl
@[simp] theorem State.respond_busState (r : HostResponse) : (s.respond r).busState = s.busState := rfl
@[simp] theorem State.respond_ie (r : HostResponse) : (s.respond r).ie = s.ie := rfl
@[simp] theorem State.respond_rxdata (r : HostResponse) : (s.respond r).rxdata = s.rxdata := rfl
@[simp] theorem State.respond_data (r : HostResponse) : (s.respond r).data = s.data := rfl
@[simp] theorem State.respond_temp (r : HostResponse) : (s.respond r).temp = s.temp := rfl
@[simp] theorem State.respond_volt (r : HostResponse) : (s.respond r).volt = s.volt := rfl
@[simp] theorem State.respond_curr (r : HostResponse) : (s.respond r).curr = s.curr := rfl
@[simp] theorem State.respond_cap (r : HostResponse) : (s.respond r).cap = s.cap := rfl
@[simp] theorem State.respond_opl (r : HostResponse) : (s.respond r).opl = s.opl := rfl
@[simp] theorem State.respond_argl (r : HostResponse) : (s.respond r).argl = s.argl := rfl
@[simp] theorem State.respond_seq (r : HostResponse) : (s.respond r).seq = s.seq := rfl
@[simp] theorem State.respond_lineDrive (r : HostResponse) : (s.respond r).lineDrive = s.lineDrive := rfl
@[simp] theorem State.respond_slot (r : HostResponse) : (s.respond r).slot = s.slot := rfl
@[simp] theorem State.respond_shift (r : HostResponse) : (s.respond r).shift = s.shift := rfl
@[simp] theorem State.respond_byteCnt (r : HostResponse) : (s.respond r).byteCnt = s.byteCnt := rfl
@[simp] theorem State.respond_vbit (r : HostResponse) : (s.respond r).vbit = s.vbit := rfl
@[simp] theorem State.respond_resp (r : HostResponse) : (s.respond r).resp = r := rfl
@[simp] theorem State.respond_inputs (r : HostResponse) : (s.respond r).inputs = s.inputs := rfl
@[simp] theorem State.respond_gap (r : HostResponse) : (s.respond r).gap = s.gap := rfl
@[simp] theorem State.respond_line (r : HostResponse) : (s.respond r).line = s.line := rfl
@[simp] theorem State.respond_samples (r : HostResponse) : (s.respond r).samples = s.samples := rfl
@[simp] theorem State.respond_draws (r : HostResponse) : (s.respond r).draws = s.draws := rfl
@[simp] theorem State.respond_epoch (r : HostResponse) : (s.respond r).epoch = s.epoch := rfl
@[simp] theorem State.respond_dev (r : HostResponse) : (s.respond r).dev = s.dev := rfl
@[simp] theorem State.respond_trace (r : HostResponse) : (s.respond r).trace = s.trace := rfl

@[simp] theorem State.takeInput_rstN (r : List (Input × Nat)) (n : Nat) : (s.takeInput r n).rstN = s.rstN := rfl
@[simp] theorem State.takeInput_cmd (r : List (Input × Nat)) (n : Nat) : (s.takeInput r n).cmd = s.cmd := rfl
@[simp] theorem State.takeInput_busy (r : List (Input × Nat)) (n : Nat) : (s.takeInput r n).busy = s.busy := rfl
@[simp] theorem State.takeInput_done (r : List (Input × Nat)) (n : Nat) : (s.takeInput r n).done = s.done := rfl
@[simp] theorem State.takeInput_result (r : List (Input × Nat)) (n : Nat) : (s.takeInput r n).result = s.result := rfl
@[simp] theorem State.takeInput_present (r : List (Input × Nat)) (n : Nat) : (s.takeInput r n).present = s.present := rfl
@[simp] theorem State.takeInput_ready (r : List (Input × Nat)) (n : Nat) : (s.takeInput r n).ready = s.ready := rfl
@[simp] theorem State.takeInput_ovr (r : List (Input × Nat)) (n : Nat) : (s.takeInput r n).ovr = s.ovr := rfl
@[simp] theorem State.takeInput_busState (r : List (Input × Nat)) (n : Nat) : (s.takeInput r n).busState = s.busState := rfl
@[simp] theorem State.takeInput_ie (r : List (Input × Nat)) (n : Nat) : (s.takeInput r n).ie = s.ie := rfl
@[simp] theorem State.takeInput_rxdata (r : List (Input × Nat)) (n : Nat) : (s.takeInput r n).rxdata = s.rxdata := rfl
@[simp] theorem State.takeInput_data (r : List (Input × Nat)) (n : Nat) : (s.takeInput r n).data = s.data := rfl
@[simp] theorem State.takeInput_temp (r : List (Input × Nat)) (n : Nat) : (s.takeInput r n).temp = s.temp := rfl
@[simp] theorem State.takeInput_volt (r : List (Input × Nat)) (n : Nat) : (s.takeInput r n).volt = s.volt := rfl
@[simp] theorem State.takeInput_curr (r : List (Input × Nat)) (n : Nat) : (s.takeInput r n).curr = s.curr := rfl
@[simp] theorem State.takeInput_cap (r : List (Input × Nat)) (n : Nat) : (s.takeInput r n).cap = s.cap := rfl
@[simp] theorem State.takeInput_opl (r : List (Input × Nat)) (n : Nat) : (s.takeInput r n).opl = s.opl := rfl
@[simp] theorem State.takeInput_argl (r : List (Input × Nat)) (n : Nat) : (s.takeInput r n).argl = s.argl := rfl
@[simp] theorem State.takeInput_seq (r : List (Input × Nat)) (n : Nat) : (s.takeInput r n).seq = s.seq := rfl
@[simp] theorem State.takeInput_lineDrive (r : List (Input × Nat)) (n : Nat) : (s.takeInput r n).lineDrive = s.lineDrive := rfl
@[simp] theorem State.takeInput_slot (r : List (Input × Nat)) (n : Nat) : (s.takeInput r n).slot = s.slot := rfl
@[simp] theorem State.takeInput_shift (r : List (Input × Nat)) (n : Nat) : (s.takeInput r n).shift = s.shift := rfl
@[simp] theorem State.takeInput_byteCnt (r : List (Input × Nat)) (n : Nat) : (s.takeInput r n).byteCnt = s.byteCnt := rfl
@[simp] theorem State.takeInput_vbit (r : List (Input × Nat)) (n : Nat) : (s.takeInput r n).vbit = s.vbit := rfl
@[simp] theorem State.takeInput_resp (r : List (Input × Nat)) (n : Nat) : (s.takeInput r n).resp = s.resp := rfl
@[simp] theorem State.takeInput_inputs (r : List (Input × Nat)) (n : Nat) : (s.takeInput r n).inputs = r := rfl
@[simp] theorem State.takeInput_gap (r : List (Input × Nat)) (n : Nat) : (s.takeInput r n).gap = n := rfl
@[simp] theorem State.takeInput_line (r : List (Input × Nat)) (n : Nat) : (s.takeInput r n).line = s.line := rfl
@[simp] theorem State.takeInput_samples (r : List (Input × Nat)) (n : Nat) : (s.takeInput r n).samples = s.samples := rfl
@[simp] theorem State.takeInput_draws (r : List (Input × Nat)) (n : Nat) : (s.takeInput r n).draws = s.draws := rfl
@[simp] theorem State.takeInput_epoch (r : List (Input × Nat)) (n : Nat) : (s.takeInput r n).epoch = s.epoch := rfl
@[simp] theorem State.takeInput_dev (r : List (Input × Nat)) (n : Nat) : (s.takeInput r n).dev = s.dev := rfl
@[simp] theorem State.takeInput_trace (r : List (Input × Nat)) (n : Nat) : (s.takeInput r n).trace = s.trace := rfl

@[simp] theorem State.lineAfterReset_rstN : (s.lineAfterReset).rstN = s.rstN := rfl
@[simp] theorem State.lineAfterReset_cmd : (s.lineAfterReset).cmd = s.cmd := rfl
@[simp] theorem State.lineAfterReset_busy : (s.lineAfterReset).busy = s.busy := rfl
@[simp] theorem State.lineAfterReset_done : (s.lineAfterReset).done = s.done := rfl
@[simp] theorem State.lineAfterReset_result : (s.lineAfterReset).result = s.result := rfl
@[simp] theorem State.lineAfterReset_present : (s.lineAfterReset).present = s.present := rfl
@[simp] theorem State.lineAfterReset_ready : (s.lineAfterReset).ready = s.ready := rfl
@[simp] theorem State.lineAfterReset_ovr : (s.lineAfterReset).ovr = s.ovr := rfl
@[simp] theorem State.lineAfterReset_busState : (s.lineAfterReset).busState = s.busState := rfl
@[simp] theorem State.lineAfterReset_ie : (s.lineAfterReset).ie = s.ie := rfl
@[simp] theorem State.lineAfterReset_rxdata : (s.lineAfterReset).rxdata = s.rxdata := rfl
@[simp] theorem State.lineAfterReset_data : (s.lineAfterReset).data = s.data := rfl
@[simp] theorem State.lineAfterReset_temp : (s.lineAfterReset).temp = s.temp := rfl
@[simp] theorem State.lineAfterReset_volt : (s.lineAfterReset).volt = s.volt := rfl
@[simp] theorem State.lineAfterReset_curr : (s.lineAfterReset).curr = s.curr := rfl
@[simp] theorem State.lineAfterReset_cap : (s.lineAfterReset).cap = s.cap := rfl
@[simp] theorem State.lineAfterReset_opl : (s.lineAfterReset).opl = s.opl := rfl
@[simp] theorem State.lineAfterReset_argl : (s.lineAfterReset).argl = s.argl := rfl
@[simp] theorem State.lineAfterReset_seq : (s.lineAfterReset).seq = s.seq := rfl
@[simp] theorem State.lineAfterReset_lineDrive : (s.lineAfterReset).lineDrive = s.lineDrive := rfl
@[simp] theorem State.lineAfterReset_slot : (s.lineAfterReset).slot = s.slot := rfl
@[simp] theorem State.lineAfterReset_shift : (s.lineAfterReset).shift = s.shift := rfl
@[simp] theorem State.lineAfterReset_byteCnt : (s.lineAfterReset).byteCnt = s.byteCnt := rfl
@[simp] theorem State.lineAfterReset_vbit : (s.lineAfterReset).vbit = s.vbit := rfl
@[simp] theorem State.lineAfterReset_resp : (s.lineAfterReset).resp = s.resp := rfl
@[simp] theorem State.lineAfterReset_inputs : (s.lineAfterReset).inputs = s.inputs := rfl
@[simp] theorem State.lineAfterReset_gap : (s.lineAfterReset).gap = s.gap := rfl
@[simp] theorem State.lineAfterReset_line : (s.lineAfterReset).line = s.line := rfl
@[simp] theorem State.lineAfterReset_samples : (s.lineAfterReset).samples = samplesAfter s.line s.samples := rfl
@[simp] theorem State.lineAfterReset_draws : (s.lineAfterReset).draws = s.draws + 1 := rfl
@[simp] theorem State.lineAfterReset_epoch : (s.lineAfterReset).epoch = s.epoch := rfl
@[simp] theorem State.lineAfterReset_dev : (s.lineAfterReset).dev = devAfterReset s.line s.dev := rfl
@[simp] theorem State.lineAfterReset_trace : (s.lineAfterReset).trace = s.trace := rfl

@[simp] theorem State.lineAfterRead_rstN : (s.lineAfterRead).rstN = s.rstN := rfl
@[simp] theorem State.lineAfterRead_cmd : (s.lineAfterRead).cmd = s.cmd := rfl
@[simp] theorem State.lineAfterRead_busy : (s.lineAfterRead).busy = s.busy := rfl
@[simp] theorem State.lineAfterRead_done : (s.lineAfterRead).done = s.done := rfl
@[simp] theorem State.lineAfterRead_result : (s.lineAfterRead).result = s.result := rfl
@[simp] theorem State.lineAfterRead_present : (s.lineAfterRead).present = s.present := rfl
@[simp] theorem State.lineAfterRead_ready : (s.lineAfterRead).ready = s.ready := rfl
@[simp] theorem State.lineAfterRead_ovr : (s.lineAfterRead).ovr = s.ovr := rfl
@[simp] theorem State.lineAfterRead_busState : (s.lineAfterRead).busState = s.busState := rfl
@[simp] theorem State.lineAfterRead_ie : (s.lineAfterRead).ie = s.ie := rfl
@[simp] theorem State.lineAfterRead_rxdata : (s.lineAfterRead).rxdata = s.rxdata := rfl
@[simp] theorem State.lineAfterRead_data : (s.lineAfterRead).data = s.data := rfl
@[simp] theorem State.lineAfterRead_temp : (s.lineAfterRead).temp = s.temp := rfl
@[simp] theorem State.lineAfterRead_volt : (s.lineAfterRead).volt = s.volt := rfl
@[simp] theorem State.lineAfterRead_curr : (s.lineAfterRead).curr = s.curr := rfl
@[simp] theorem State.lineAfterRead_cap : (s.lineAfterRead).cap = s.cap := rfl
@[simp] theorem State.lineAfterRead_opl : (s.lineAfterRead).opl = s.opl := rfl
@[simp] theorem State.lineAfterRead_argl : (s.lineAfterRead).argl = s.argl := rfl
@[simp] theorem State.lineAfterRead_seq : (s.lineAfterRead).seq = s.seq := rfl
@[simp] theorem State.lineAfterRead_lineDrive : (s.lineAfterRead).lineDrive = s.lineDrive := rfl
@[simp] theorem State.lineAfterRead_slot : (s.lineAfterRead).slot = s.slot := rfl
@[simp] theorem State.lineAfterRead_shift : (s.lineAfterRead).shift = s.shift := rfl
@[simp] theorem State.lineAfterRead_byteCnt : (s.lineAfterRead).byteCnt = s.byteCnt := rfl
@[simp] theorem State.lineAfterRead_vbit : (s.lineAfterRead).vbit = s.vbit := rfl
@[simp] theorem State.lineAfterRead_resp : (s.lineAfterRead).resp = s.resp := rfl
@[simp] theorem State.lineAfterRead_inputs : (s.lineAfterRead).inputs = s.inputs := rfl
@[simp] theorem State.lineAfterRead_gap : (s.lineAfterRead).gap = s.gap := rfl
@[simp] theorem State.lineAfterRead_line : (s.lineAfterRead).line = s.line := rfl
@[simp] theorem State.lineAfterRead_samples : (s.lineAfterRead).samples = samplesAfter s.line s.samples := rfl
@[simp] theorem State.lineAfterRead_draws : (s.lineAfterRead).draws = s.draws + 1 := rfl
@[simp] theorem State.lineAfterRead_epoch : (s.lineAfterRead).epoch = s.epoch := rfl
@[simp] theorem State.lineAfterRead_dev : (s.lineAfterRead).dev = devAfterRead s.line s.dev := rfl
@[simp] theorem State.lineAfterRead_trace : (s.lineAfterRead).trace = s.trace := rfl

@[simp] theorem State.lineAfterWrite_rstN (b : Bool) : (s.lineAfterWrite b).rstN = s.rstN := rfl
@[simp] theorem State.lineAfterWrite_cmd (b : Bool) : (s.lineAfterWrite b).cmd = s.cmd := rfl
@[simp] theorem State.lineAfterWrite_busy (b : Bool) : (s.lineAfterWrite b).busy = s.busy := rfl
@[simp] theorem State.lineAfterWrite_done (b : Bool) : (s.lineAfterWrite b).done = s.done := rfl
@[simp] theorem State.lineAfterWrite_result (b : Bool) : (s.lineAfterWrite b).result = s.result := rfl
@[simp] theorem State.lineAfterWrite_present (b : Bool) : (s.lineAfterWrite b).present = s.present := rfl
@[simp] theorem State.lineAfterWrite_ready (b : Bool) : (s.lineAfterWrite b).ready = s.ready := rfl
@[simp] theorem State.lineAfterWrite_ovr (b : Bool) : (s.lineAfterWrite b).ovr = s.ovr := rfl
@[simp] theorem State.lineAfterWrite_busState (b : Bool) : (s.lineAfterWrite b).busState = s.busState := rfl
@[simp] theorem State.lineAfterWrite_ie (b : Bool) : (s.lineAfterWrite b).ie = s.ie := rfl
@[simp] theorem State.lineAfterWrite_rxdata (b : Bool) : (s.lineAfterWrite b).rxdata = s.rxdata := rfl
@[simp] theorem State.lineAfterWrite_data (b : Bool) : (s.lineAfterWrite b).data = s.data := rfl
@[simp] theorem State.lineAfterWrite_temp (b : Bool) : (s.lineAfterWrite b).temp = s.temp := rfl
@[simp] theorem State.lineAfterWrite_volt (b : Bool) : (s.lineAfterWrite b).volt = s.volt := rfl
@[simp] theorem State.lineAfterWrite_curr (b : Bool) : (s.lineAfterWrite b).curr = s.curr := rfl
@[simp] theorem State.lineAfterWrite_cap (b : Bool) : (s.lineAfterWrite b).cap = s.cap := rfl
@[simp] theorem State.lineAfterWrite_opl (b : Bool) : (s.lineAfterWrite b).opl = s.opl := rfl
@[simp] theorem State.lineAfterWrite_argl (b : Bool) : (s.lineAfterWrite b).argl = s.argl := rfl
@[simp] theorem State.lineAfterWrite_seq (b : Bool) : (s.lineAfterWrite b).seq = s.seq := rfl
@[simp] theorem State.lineAfterWrite_lineDrive (b : Bool) : (s.lineAfterWrite b).lineDrive = s.lineDrive := rfl
@[simp] theorem State.lineAfterWrite_slot (b : Bool) : (s.lineAfterWrite b).slot = s.slot := rfl
@[simp] theorem State.lineAfterWrite_shift (b : Bool) : (s.lineAfterWrite b).shift = s.shift := rfl
@[simp] theorem State.lineAfterWrite_byteCnt (b : Bool) : (s.lineAfterWrite b).byteCnt = s.byteCnt := rfl
@[simp] theorem State.lineAfterWrite_vbit (b : Bool) : (s.lineAfterWrite b).vbit = s.vbit := rfl
@[simp] theorem State.lineAfterWrite_resp (b : Bool) : (s.lineAfterWrite b).resp = s.resp := rfl
@[simp] theorem State.lineAfterWrite_inputs (b : Bool) : (s.lineAfterWrite b).inputs = s.inputs := rfl
@[simp] theorem State.lineAfterWrite_gap (b : Bool) : (s.lineAfterWrite b).gap = s.gap := rfl
@[simp] theorem State.lineAfterWrite_line (b : Bool) : (s.lineAfterWrite b).line = s.line := rfl
@[simp] theorem State.lineAfterWrite_samples (b : Bool) : (s.lineAfterWrite b).samples = s.samples := rfl
@[simp] theorem State.lineAfterWrite_draws (b : Bool) : (s.lineAfterWrite b).draws = s.draws := rfl
@[simp] theorem State.lineAfterWrite_epoch (b : Bool) : (s.lineAfterWrite b).epoch = s.epoch := rfl
@[simp] theorem State.lineAfterWrite_dev (b : Bool) : (s.lineAfterWrite b).dev = devAfterWrite s.line s.dev b := rfl
@[simp] theorem State.lineAfterWrite_trace (b : Bool) : (s.lineAfterWrite b).trace = s.trace := rfl

end Sys2Proof.Machine
end

