-- ==== Sys2Proof/Laws/Run.lean ====
section
/-! SUPPORT. What runs of CTRL steps do: one lemma per procedure of the PHY (40_transport.md section 2), for every LINE. -/

namespace Sys2Proof.Machine

theorem ctrlSteps_add (a b : Nat) (s : State) : ctrlSteps (a + b) s = ctrlSteps b (ctrlSteps a s) := by
  induction a generalizing s with
  | zero => simp [ctrlSteps]
  | succ n ih => rw [Nat.succ_add]; exact ih _

theorem ctrlStep_cons {s : State} {m : Micro} {rest : List Micro} (hr : s.running = true) (hs : s.seq = m :: rest) :
    ctrlStep s = micro m (s.pop rest) := by
  simp [ctrlStep, hr, hs]

theorem running_iff (s : State) : s.running = true ↔ s.rstN = true ∧ s.busy = true := by
  simp [State.running]

/-- CTRL does nothing while no operation runs (R343, R360). -/
theorem ctrlSteps_idle {s : State} (h : s.running = false) (n : Nat) : ctrlSteps n s = s := by
  induction n with
  | zero => rfl
  | succ n ih => rw [ctrlSteps, show ctrlStep s = s by simp [ctrlStep, h], ih]

/-- The device after the eight written bits of a byte. -/
def devAfterByte (l : Line) (d : RefDevice) (x : Byte) : RefDevice := (byteBits x).foldl (devAfterWrite l) d

/-- One write slot of a byte (R165, R167). -/
theorem run_writeSlot {s : State} {rest : List Micro} (hr : s.running = true) (hs : s.seq = .writeSlot :: rest) :
    ctrlSteps 4 s =
      { s with
        busState := .bitSlot
        lineDrive := false
        slot := s.slot + 1
        seq := if s.slot = 7 then rest else .writeSlot :: rest
        epoch := s.epoch + 4
        dev := devAfterWrite s.line s.dev (s.shift.getLsbD s.slot.toNat)
        trace := (frameWriteBit (s.shift.getLsbD s.slot.toNat)).reverse ++ s.trace } := by
  have hr' := (running_iff s).1 hr
  rcases hb : s.shift.getLsbD s.slot.toNat <;>
  simp [ctrlSteps, ctrlStep, hs, hr', State.running, micro, writeSlot, writeBitTail, frameWriteBit, State.pop, State.lineLow,
    State.waitFor, State.emit, releaseBit, State.lineRelease, State.lineAfterWrite, hb]

theorem run_writeSlots (k : Nat) (hk : k ≤ 7) {s : State} {rest : List Micro} (hr : s.running = true)
    (hs : s.seq = .writeSlot :: rest) (hslot : s.slot = BitVec.ofNat 3 (7 - k)) :
    ctrlSteps (4 * (k + 1)) s =
      { s with
        busState := .bitSlot
        lineDrive := false
        slot := 0
        seq := rest
        epoch := s.epoch + 4 * (k + 1)
        dev := ((byteBits s.shift).drop (7 - k)).foldl (devAfterWrite s.line) s.dev
        trace := (((byteBits s.shift).drop (7 - k)).flatMap frameWriteBit).reverse ++ s.trace } := by
  have hdrop : ∀ j, j < 8 → (byteBits s.shift).drop j = s.shift.getLsbD j :: (byteBits s.shift).drop (j + 1) := by
    intro j hj
    have : j = 0 ∨ j = 1 ∨ j = 2 ∨ j = 3 ∨ j = 4 ∨ j = 5 ∨ j = 6 ∨ j = 7 := by omega
    rcases this with rfl | rfl | rfl | rfl | rfl | rfl | rfl | rfl <;> rfl
  induction k generalizing s with
  | zero =>
    rw [show 4 * (0 + 1) = 4 from rfl, run_writeSlot hr hs, hdrop _ (by omega)]
    simp [hslot, byteBits, List.range_succ]
  | succ k ih =>
    have h7 : s.slot ≠ 7 := by rw [hslot]; intro h; have := congrArg BitVec.toNat h; simp at this; omega
    have htn : s.slot.toNat = 7 - (k + 1) := by rw [hslot]; simp; omega
    rw [show 4 * (k + 1 + 1) = 4 + 4 * (k + 1) by omega, ctrlSteps_add, run_writeSlot hr hs, ih (by omega)]
    · rw [hdrop (7 - (k + 1)) (by omega), show 7 - (k + 1) + 1 = 7 - k by omega]
      simp [htn, Nat.add_assoc]
    · simpa [State.running] using hr
    · simpa using fun h => absurd h h7
    · simp only [hslot]
      apply BitVec.eq_of_toNat_eq
      simp
      omega
    · simpa using hdrop

/-- The eight write slots of the byte in the shift register (R167). -/
theorem run_writeByte {s : State} {rest : List Micro} (hr : s.running = true) (hs : s.seq = .writeSlot :: rest)
    (hslot : s.slot = 0) :
    ctrlSteps 32 s =
      { s with
        busState := .bitSlot
        lineDrive := false
        slot := 0
        seq := rest
        epoch := s.epoch + 32
        dev := devAfterByte s.line s.dev s.shift
        trace := (frameWriteByte s.shift).reverse ++ s.trace } := by
  simpa [devAfterByte, frameWriteByte] using run_writeSlots 7 (by omega) hr hs (by simpa using hslot)

/-- `OW_WriteByte(x)` (R167): a byte loaded and its eight slots. -/
theorem run_loadByte {s : State} {x : Byte} {rest : List Micro} (hr : s.running = true)
    (hs : s.seq = .loadByte x :: .writeSlot :: rest) :
    ctrlSteps 33 s =
      { s with
        busState := .bitSlot
        lineDrive := false
        slot := 0
        shift := x
        seq := rest
        epoch := s.epoch + 33
        dev := devAfterByte s.line s.dev x
        trace := (frameWriteByte x).reverse ++ s.trace } := by
  rw [show 33 = 1 + 32 from rfl, ctrlSteps_add, show ctrlSteps 1 s = ctrlStep s from rfl, ctrlStep_cons hr hs,
    run_writeByte (rest := rest)]
  · simp [micro, loadByte, State.pop, Nat.add_assoc]
  · simpa [micro, loadByte, State.running] using hr
  · simp [micro, loadByte]
  · simp [micro, loadByte]

/-- A wire command byte sent by the sequencer (R136 to R143). -/
theorem run_command {s : State} {x : Byte} {rest : List Micro} (hr : s.running = true) (hs : s.seq = .command x :: rest) :
    ctrlSteps 33 s =
      { s with
        busState := .bitSlot
        lineDrive := false
        slot := 0
        shift := x
        seq := rest
        epoch := s.epoch + 33
        dev := devAfterByte s.line s.dev x
        trace := (frameWriteByte x).reverse ++ s.trace } := by
  rw [show 33 = 1 + 32 from rfl, ctrlSteps_add, show ctrlSteps 1 s = ctrlStep s from rfl, ctrlStep_cons hr hs,
    run_writeByte (rest := rest)]
  · simp [micro, startCommand, loadByte, State.pop, Nat.add_assoc]
  · simpa [micro, startCommand, loadByte, State.running] using hr
  · simp [micro, startCommand, loadByte]
  · simp [micro, startCommand, loadByte]

/-- What remains after a reset whose presence sample read `p` (R170). -/
def seqAfterReset (c : Option ResultCode) (p : Bool) (rest : List Micro) : List Micro :=
  match c with
  | none => rest
  | some code => if p then [.finish code] else rest

/-- `OW_Reset()` (R164), with what its caller does when it finds no device (R170). -/
theorem run_reset {s : State} {c : Option ResultCode} {rest : List Micro} (hr : s.running = true)
    (hs : s.seq = resetOps c ++ rest) :
    ctrlSteps 7 s =
      { s with
        busState := .presence
        lineDrive := false
        present := !s.presenceLevel
        vbit := s.presenceLevel
        seq := seqAfterReset c s.presenceLevel rest
        epoch := s.epoch + 7
        samples := samplesAfter s.line s.samples
        draws := s.draws + 1
        dev := devAfterReset s.line s.dev
        trace := (frameReset s.presenceLevel).reverse ++ s.trace } := by
  have hr' := (running_iff s).1 hr
  have hs' : s.seq = .resetLow :: .wait .tRSTL :: .resetRelease :: .waitPresence :: .samplePresence :: .wait .tRSTHRem
      :: .latchPresence c :: rest := by simpa [resetOps] using hs
  simp [ctrlSteps, ctrlStep, hs', hr', State.running, micro, State.pop, State.lineLow, State.waitFor, State.emit,
    State.lineRelease, samplePresence, State.lineAfterReset, latchPresence, presentOfSample, frameReset,
    State.presenceLevel]
  cases c <;> cases presenceLevelOf s.line s.samples s.draws s.dev <;> simp [seqAfterReset]

/-- The levels `n` read slots get, first one first. -/
def readLevels : Nat → Line → List Bool → Nat → RefDevice → List Bool
  | 0, _, _, _, _ => []
  | n + 1, l, q, k, d => slotLevelOf l q k d :: readLevels n l (samplesAfter l q) (k + 1) (devAfterRead l d)

/-- The listed levels of the free LINE after `n` read slots. -/
def samplesAfterReads : Nat → Line → List Bool → List Bool
  | 0, _, q => q
  | n + 1, l, q => samplesAfterReads n l (samplesAfter l q)

/-- The device after `n` read slots. -/
def devAfterReads : Nat → Line → RefDevice → RefDevice
  | 0, _, d => d
  | n + 1, l, d => devAfterReads n l (devAfterRead l d)

/-- `OW_ReadBit()` (R166). -/
theorem run_readBit {s : State} {rest : List Micro} (hr : s.running = true) (hs : s.seq = readBitOps ++ rest) :
    ctrlSteps 6 s =
      { s with
        busState := .bitSlot
        lineDrive := false
        vbit := s.slotLevel
        seq := rest
        epoch := s.epoch + 6
        samples := samplesAfter s.line s.samples
        draws := s.draws + 1
        dev := devAfterRead s.line s.dev
        trace := (frameReadBit s.slotLevel).reverse ++ s.trace } := by
  have hr' := (running_iff s).1 hr
  have hs' : s.seq = .slotLow :: .wait .tRL :: .release :: .wait .tRDV :: .sampleBit :: .wait .tRRec :: rest := by
    simpa [readBitOps, readBitTail] using hs
  simp [ctrlSteps, ctrlStep, hs', hr', State.running, micro, State.pop, State.lineLow, State.waitFor, State.emit,
    State.lineRelease, sampleBit, State.lineAfterRead, frameReadBit,
    State.slotLevel]

/-- `r` after one received bit (R168). -/
def shiftedIn (r : Byte) (v : Bool) : Byte := (r >>> 1) ||| (if v then 0x80 else 0x00)

/-- One read slot of a byte (R166, R168). -/
theorem run_readSlot {s : State} {rest : List Micro} (hr : s.running = true) (hs : s.seq = .readSlot :: rest) :
    ctrlSteps 7 s =
      { s with
        busState := .bitSlot
        lineDrive := false
        vbit := s.slotLevel
        slot := s.slot + 1
        shift := shiftedIn s.shift s.slotLevel
        seq := if s.slot = 7 then rest else .readSlot :: rest
        epoch := s.epoch + 7
        samples := samplesAfter s.line s.samples
        draws := s.draws + 1
        dev := devAfterRead s.line s.dev
        trace := (frameReadBit s.slotLevel).reverse ++ s.trace } := by
  have hr' := (running_iff s).1 hr
  simp [ctrlSteps, ctrlStep, hs, hr', State.running, micro, readSlot, readBitTail, State.pop, State.lineLow, State.waitFor,
    State.emit, State.lineRelease, sampleBit, State.lineAfterRead, shiftIn, shiftedIn, frameReadBit,
    State.slotLevel]
  rfl

/-- The byte `OW_ReadByte` assembles from eight levels (R168). -/
def receivedByte (bits : List Bool) : Byte := bits.foldl shiftedIn 0

@[simp] theorem readLevels_length (n : Nat) (l : Line) (q : List Bool) (k : Nat) (d : RefDevice) :
    (readLevels n l q k d).length = n := by
  induction n generalizing q k d with
  | zero => rfl
  | succ n ih => simp [readLevels, ih]

theorem run_readSlots (k : Nat) (hk : k ≤ 7) {s : State} {rest : List Micro} (hr : s.running = true)
    (hs : s.seq = .readSlot :: rest) (hslot : s.slot = BitVec.ofNat 3 (7 - k)) :
    ∃ v, ctrlSteps (7 * (k + 1)) s =
      { s with
        busState := .bitSlot
        lineDrive := false
        vbit := v
        slot := 0
        shift := (readLevels (k + 1) s.line s.samples s.draws s.dev).foldl shiftedIn s.shift
        seq := rest
        epoch := s.epoch + 7 * (k + 1)
        samples := samplesAfterReads (k + 1) s.line s.samples
        draws := s.draws + (k + 1)
        dev := devAfterReads (k + 1) s.line s.dev
        trace := ((readLevels (k + 1) s.line s.samples s.draws s.dev).flatMap frameReadBit).reverse ++ s.trace } := by
  induction k generalizing s with
  | zero =>
    refine ⟨s.slotLevel, ?_⟩
    rw [show 7 * (0 + 1) = 7 from rfl, run_readSlot hr hs]
    simp [hslot, readLevels, samplesAfterReads, devAfterReads, State.slotLevel]
  | succ k ih =>
    have h7 : s.slot ≠ 7 := by rw [hslot]; intro h; have := congrArg BitVec.toNat h; simp at this; omega
    rw [show 7 * (k + 1 + 1) = 7 + 7 * (k + 1) by omega, ctrlSteps_add]
    obtain ⟨v, hv⟩ := ih (s := ctrlSteps 7 s) (by omega) (by rw [run_readSlot hr hs]; simpa [State.running] using hr)
        (by rw [run_readSlot hr hs]; simpa using fun h => absurd h h7)
        (by rw [run_readSlot hr hs]; simp only [hslot]; apply BitVec.eq_of_toNat_eq; simp; omega)
    refine ⟨v, ?_⟩
    rw [hv, run_readSlot hr hs]
    simp [readLevels, samplesAfterReads, devAfterReads, State.slotLevel, Nat.add_assoc, Nat.add_comm, Nat.add_left_comm]

theorem byteBits_receivedByte {bits : List Bool} (h : bits.length = 8) : byteBits (receivedByte bits) = bits := by
  match bits, h with
  | [a, b, c, d, e, f, g, i], _ => revert a b c d e f g i; decide

/-- The byte the next eight read slots give. -/
def nextByte (s : State) : Byte := receivedByte (readLevels 8 s.line s.samples s.draws s.dev)

/-- `OW_ReadByte()` (R168): the byte of the eight levels the LINE gives. -/
theorem run_readByte {s : State} {rest : List Micro} (hr : s.running = true)
    (hs : s.seq = .clearByte :: .readSlot :: rest) :
    ∃ v, ctrlSteps 57 s =
      { s with
        busState := .bitSlot
        lineDrive := false
        vbit := v
        slot := 0
        shift := nextByte s
        seq := rest
        epoch := s.epoch + 57
        samples := samplesAfterReads 8 s.line s.samples
        draws := s.draws + 8
        dev := devAfterReads 8 s.line s.dev
        trace := (frameReadByte (nextByte s)).reverse ++ s.trace } := by
  rw [show 57 = 1 + 7 * (7 + 1) from rfl, ctrlSteps_add, show ctrlSteps 1 s = ctrlStep s from rfl, ctrlStep_cons hr hs]
  obtain ⟨v, hv⟩ := run_readSlots 7 (by omega) (s := micro .clearByte (s.pop (.readSlot :: rest))) (rest := rest)
    (by simpa [micro, loadByte, State.running] using hr) (by simp [micro, loadByte]) (by simp [micro, loadByte])
  refine ⟨v, ?_⟩
  rw [hv, nextByte, frameReadByte, byteBits_receivedByte (readLevels_length 8 _ _ _ _)]
  simp [micro, loadByte, State.pop, receivedByte, Nat.add_assoc]

end Sys2Proof.Machine
end

