-- ==== Sys2Proof/Laws/Procedures.lean ====
section
/-! SUPPORT. What runs of CTRL steps do: handshakes, the loops over the nine bytes of a page, and the page procedures
(41_register_access.md section 1), for every LINE. -/

namespace Sys2Proof.Machine

/-- The device after a handshake (R136). -/
def devAfterHandshake (l : Line) (d : RefDevice) (c n : Byte) : RefDevice :=
  devAfterByte l (devAfterByte l (devAfterByte l (devAfterReset l d) 0xCC) c) n

/-- A run in which a reset finds no device (R170, R203): nothing remains but the completion. -/
theorem run_reset_none {s : State} {code : ResultCode} {rest : List Micro} (hr : s.running = true)
    (hs : s.seq = resetOps (some code) ++ rest) (hp : s.presenceLevel = true) :
    ctrlSteps 8 s =
      finish code
        { s with
          busState := .presence
          lineDrive := false
          present := false
          vbit := true
          seq := []
          epoch := s.epoch + 8
          samples := samplesAfter s.line s.samples
          draws := s.draws + 1
          dev := devAfterReset s.line s.dev
          trace := (frameReset true).reverse ++ s.trace } := by
  rw [show 8 = 7 + 1 from rfl, ctrlSteps_add, run_reset hr hs, hp]
  have hr' := (running_iff s).1 hr
  simp [ctrlSteps, ctrlStep, State.running, hr', seqAfterReset, micro, State.pop]

/-- A handshake whose reset finds a device (R136). -/
theorem run_handshake {s : State} {code : ResultCode} {c n : Byte} {rest : List Micro} (hr : s.running = true)
    (hs : s.seq = handshakeOps code c n ++ rest) (hp : s.presenceLevel = false) :
    ctrlSteps 106 s =
      { s with
        busState := .bitSlot
        lineDrive := false
        present := true
        vbit := false
        slot := 0
        shift := n
        seq := rest
        epoch := s.epoch + 106
        samples := samplesAfter s.line s.samples
        draws := s.draws + 1
        dev := devAfterHandshake s.line s.dev c n
        trace := (frameHandshake c n).reverse ++ s.trace } := by
  have e1 := run_reset (rest := .command 0xCC :: .command c :: .loadByte n :: .writeSlot :: rest) hr
    (by simpa [handshakeOps, writeByteOps] using hs)
  have e2 := run_command (s := ctrlSteps 7 s) (x := 0xCC) (rest := .command c :: .loadByte n :: .writeSlot :: rest)
    (by rw [e1]; simpa [State.running] using hr) (by rw [e1]; simp [seqAfterReset, hp])
  have e3 := run_command (s := ctrlSteps 33 (ctrlSteps 7 s)) (x := c) (rest := .loadByte n :: .writeSlot :: rest)
    (by rw [e2, e1]; simpa [State.running] using hr) (by rw [e2])
  have e4 := run_loadByte (s := ctrlSteps 33 (ctrlSteps 33 (ctrlSteps 7 s))) (x := n) (rest := rest)
    (by rw [e3, e2, e1]; simpa [State.running] using hr) (by rw [e3])
  rw [show 106 = 7 + (33 + (33 + 33)) from rfl, ctrlSteps_add, ctrlSteps_add 33, ctrlSteps_add 33, e4, e3, e2, e1]
  simp [hp, devAfterHandshake, frameHandshake, Nat.add_assoc]

/-- The bytes the next reads of `k` bytes give. -/
def readBytes : Nat → Line → List Bool → Nat → RefDevice → List Byte
  | 0, _, _, _, _ => []
  | k + 1, l, q, n, d =>
    receivedByte (readLevels 8 l q n d) :: readBytes k l (samplesAfterReads 8 l q) (n + 8) (devAfterReads 8 l d)

/-- The listed levels of the free LINE after `k` bytes. -/
def samplesAfterBytes : Nat → Line → List Bool → List Bool
  | 0, _, q => q
  | k + 1, l, q => samplesAfterBytes k l (samplesAfterReads 8 l q)

/-- The device after `k` read bytes. -/
def devAfterBytes : Nat → Line → RefDevice → RefDevice
  | 0, _, d => d
  | k + 1, l, d => devAfterBytes k l (devAfterReads 8 l d)

/-- The page buffer with bytes stored from index `j` on. -/
def storeFrom : Nat → List Byte → Page → Page
  | _, [], p => p
  | j, b :: bs, p => storeFrom (j + 1) bs (setDataByte p j b)

/-- One turn of the loop that reads the page bytes (R201). -/
theorem run_storeTurn {s : State} {rest : List Micro} (hr : s.running = true)
    (hs : s.seq = .clearByte :: .readSlot :: .storeData :: rest) :
    ∃ v, ctrlSteps 58 s =
      { s with
        busState := .bitSlot
        lineDrive := false
        vbit := v
        slot := 0
        byteCnt := if s.byteCnt.toNat < 8 then s.byteCnt + 1 else s.byteCnt
        shift := nextByte s
        data := setDataByte s.data s.byteCnt.toNat (nextByte s)
        seq := if s.byteCnt.toNat < 8 then .clearByte :: .readSlot :: .storeData :: rest else rest
        epoch := s.epoch + 58
        samples := samplesAfterReads 8 s.line s.samples
        draws := s.draws + 8
        dev := devAfterReads 8 s.line s.dev
        trace := (frameReadByte (nextByte s)).reverse ++ s.trace } := by
  obtain ⟨v, hv⟩ := run_readByte hr hs
  refine ⟨v, ?_⟩
  rw [show 58 = 57 + 1 from rfl, ctrlSteps_add, show ∀ t, ctrlSteps 1 t = ctrlStep t from fun _ => rfl,
    ctrlStep_cons (s := ctrlSteps 57 s) (m := .storeData) (rest := rest) (by rw [hv]; simpa [State.running] using hr)
      (by rw [hv]), hv]
  by_cases h : s.byteCnt.toNat < 8 <;> simp [micro, storeData, State.pop, h]

/-- The loop that reads the page bytes (R201), from byte `j` on. -/
theorem run_storeLoop (k j : Nat) (hj : j + k = 8) {s : State} {rest : List Micro} (hr : s.running = true)
    (hs : s.seq = .clearByte :: .readSlot :: .storeData :: rest) (hc : s.byteCnt = BitVec.ofNat 4 j) :
    ∃ v sh, ctrlSteps (58 * (k + 1)) s =
      { s with
        busState := .bitSlot
        lineDrive := false
        vbit := v
        slot := 0
        byteCnt := 8
        shift := sh
        data := storeFrom j (readBytes (k + 1) s.line s.samples s.draws s.dev) s.data
        seq := rest
        epoch := s.epoch + 58 * (k + 1)
        samples := samplesAfterBytes (k + 1) s.line s.samples
        draws := s.draws + 8 * (k + 1)
        dev := devAfterBytes (k + 1) s.line s.dev
        trace := ((readBytes (k + 1) s.line s.samples s.draws s.dev).flatMap frameReadByte).reverse ++ s.trace } := by
  have hcn : s.byteCnt.toNat = j := by rw [hc]; simp; omega
  obtain ⟨v, hv⟩ := run_storeTurn hr hs
  induction k generalizing s j v with
  | zero =>
    refine ⟨v, nextByte s, ?_⟩
    have : j = 8 := by omega
    subst this
    rw [show 58 * (0 + 1) = 58 from rfl, hv]
    simp [hc, readBytes, samplesAfterBytes, devAfterBytes, storeFrom, nextByte]
  | succ k ih =>
    have hlt : j < 8 := by omega
    rw [hcn, if_pos hlt, if_pos hlt] at hv
    have hr2 : (ctrlSteps 58 s).running = true := by rw [hv]; simpa [State.running] using hr
    have hs2 : (ctrlSteps 58 s).seq = .clearByte :: .readSlot :: .storeData :: rest := by rw [hv]
    have hc2 : (ctrlSteps 58 s).byteCnt = BitVec.ofNat 4 (j + 1) := by rw [hv, BitVec.ofNat_add]; simp [hc]
    obtain ⟨v2, hv2⟩ := run_storeTurn hr2 hs2
    obtain ⟨w, sh, hw⟩ := ih (j + 1) (by omega) hr2 hs2 hc2 (by rw [hc2]; simp; omega) v2 hv2
    refine ⟨w, sh, ?_⟩
    rw [show 58 * (k + 1 + 1) = 58 + 58 * (k + 1) by omega, ctrlSteps_add, hw, hv]
    simp [readBytes, samplesAfterBytes, devAfterBytes, storeFrom, nextByte, Nat.add_assoc]
    omega

@[simp] theorem readBytes_length (k : Nat) (l : Line) (q : List Bool) (n : Nat) (d : RefDevice) :
    (readBytes k l q n d).length = k := by
  induction k generalizing q n d with
  | zero => rfl
  | succ k ih => simp [readBytes, ih]

/-- A page from its nine bytes. -/
def pageOf (bs : List Byte) : Page := storeFrom 0 bs (Vector.replicate 9 0)

theorem toList_storeFrom (j : Nat) (bs : List Byte) (p : Page) (h : j + bs.length = 9) :
    (storeFrom j bs p).toList = p.toList.take j ++ bs := by
  induction bs generalizing j p with
  | nil => simp at h; subst h; simp [storeFrom]
  | cons b bs ih =>
    simp at h
    rw [storeFrom, ih _ _ (by omega)]
    simp only [setDataByte, Vector.toList_setIfInBounds]
    rw [List.take_add_one, List.take_set, List.set_eq_of_length_le (by simp), List.getElem?_set_self (by simp; omega)]
    simp

/-- The nine stored bytes replace the whole page buffer. -/
theorem storeFrom_nine {bs : List Byte} (h : bs.length = 9) (p : Page) :
    storeFrom 0 bs p = pageOf bs ∧ (pageOf bs).toList = bs :=
  ⟨Vector.toList_inj.1 (by rw [pageOf, toList_storeFrom _ _ _ (by simp [h]), toList_storeFrom _ _ _ (by simp [h])]; simp),
    by rw [pageOf, toList_storeFrom _ _ _ (by simp [h])]; simp⟩

/-- The page the LINE gives to a page read whose presence samples are still to come (R201). -/
def nextPage (l : Line) (q : List Bool) (n : Nat) (d : RefDevice) : Page := pageOf (readBytes 9 l q n d)

/-- The device after the two handshakes and nine bytes of a page read. -/
def devAtRead (l : Line) (d : RefDevice) (n : Byte) : RefDevice :=
  devAfterHandshake l (devAfterHandshake l d 0xB8 n) 0xBE n

/-- `ReadPage(n)` when both resets find a device (R201). -/
theorem run_readPage {s : State} {code : ResultCode} {n : Byte} {rest : List Micro} (hr : s.running = true)
    (hs : s.seq = readPageOps code n ++ rest) (hp : s.presenceLevel = false)
    (hp2 : presenceLevelOf s.line (samplesAfter s.line s.samples) (s.draws + 1)
      (devAfterHandshake s.line s.dev 0xB8 n) = false) :
    ∃ v sh, ctrlSteps 735 s =
      { s with
        busState := .bitSlot
        lineDrive := false
        present := true
        vbit := v
        slot := 0
        byteCnt := 8
        shift := sh
        data := nextPage s.line (samplesAfter s.line (samplesAfter s.line s.samples)) (s.draws + 2)
          (devAtRead s.line s.dev n)
        seq := rest
        epoch := s.epoch + 735
        samples := samplesAfterBytes 9 s.line (samplesAfter s.line (samplesAfter s.line s.samples))
        draws := s.draws + 74
        dev := devAfterBytes 9 s.line (devAtRead s.line s.dev n)
        trace := (frameReadPage n (nextPage s.line (samplesAfter s.line (samplesAfter s.line s.samples)) (s.draws + 2)
          (devAtRead s.line s.dev n))).reverse ++ s.trace } := by
  have e1 := run_handshake (code := code) (c := 0xB8) (n := n)
    (rest := handshakeOps code 0xBE n ++ .firstByte :: .clearByte :: .readSlot :: .storeData :: rest) hr
    (by simpa [readPageOps, readByteOps] using hs) hp
  have e2 := run_handshake (s := ctrlSteps 106 s) (code := code) (c := 0xBE) (n := n)
    (rest := .firstByte :: .clearByte :: .readSlot :: .storeData :: rest)
    (by rw [e1]; simpa [State.running] using hr) (by rw [e1]) (by rw [e1]; exact hp2)
  have e3 := ctrlStep_cons (s := ctrlSteps 106 (ctrlSteps 106 s)) (m := .firstByte)
    (rest := .clearByte :: .readSlot :: .storeData :: rest) (by rw [e2, e1]; simpa [State.running] using hr) (by rw [e2])
  obtain ⟨v, sh, e4⟩ := run_storeLoop 8 0 rfl (s := ctrlStep (ctrlSteps 106 (ctrlSteps 106 s))) (rest := rest)
    (by rw [e3, e2, e1]; simpa [micro, State.running] using hr) (by rw [e3]; rfl) (by rw [e3]; rfl)
  refine ⟨v, sh, ?_⟩
  rw [show 735 = 106 + (106 + (1 + 58 * (8 + 1))) from rfl, ctrlSteps_add, ctrlSteps_add 106, ctrlSteps_add 1,
    show ∀ t, ctrlSteps 1 t = ctrlStep t from fun _ => rfl, e4, e3, e2, e1]
  have hn := fun l q n d p => storeFrom_nine (readBytes_length 9 l q n d) p
  simp [micro, State.pop, (hn _ _ _ _ _).1, nextPage, devAtRead, frameReadPage, (hn _ _ _ _ (Vector.replicate 9 0)).2,
    Nat.add_assoc]

/-- One turn of the loop that writes the page bytes (R202). -/
theorem run_loadTurn {s : State} {rest : List Micro} (hr : s.running = true)
    (hs : s.seq = .loadData :: .writeSlot :: .nextData :: rest) :
    ctrlSteps 34 s =
      { s with
        busState := .bitSlot
        lineDrive := false
        slot := 0
        byteCnt := if s.byteCnt.toNat < 8 then s.byteCnt + 1 else s.byteCnt
        shift := dataByte s.data s.byteCnt.toNat
        seq := if s.byteCnt.toNat < 8 then .loadData :: .writeSlot :: .nextData :: rest else rest
        epoch := s.epoch + 34
        dev := devAfterByte s.line s.dev (dataByte s.data s.byteCnt.toNat)
        trace := (frameWriteByte (dataByte s.data s.byteCnt.toNat)).reverse ++ s.trace } := by
  have e1 := ctrlStep_cons hr hs
  have e2 := run_writeByte (s := ctrlStep s) (rest := .nextData :: rest)
    (by rw [e1]; simpa [micro, loadByte, State.running] using hr) (by rw [e1]; simp [micro, loadByte])
    (by rw [e1]; simp [micro, loadByte])
  have e3 := ctrlStep_cons (s := ctrlSteps 32 (ctrlStep s)) (m := .nextData) (rest := rest)
    (by rw [e2, e1]; simpa [micro, loadByte, State.running] using hr) (by rw [e2])
  rw [show 34 = 1 + (32 + 1) from rfl, ctrlSteps_add, ctrlSteps_add 32, show ∀ t, ctrlSteps 1 t = ctrlStep t from fun _ => rfl,
    show ∀ t, ctrlSteps 1 t = ctrlStep t from fun _ => rfl, e3, e2, e1]
  by_cases h : s.byteCnt.toNat < 8 <;> simp [micro, loadByte, nextData, State.pop, h, Nat.add_assoc]

/-- The device after the written bytes of a list. -/
def devAfterWritten (l : Line) (d : RefDevice) (bs : List Byte) : RefDevice := bs.foldl (devAfterByte l) d

theorem drop_eq_dataByte (p : Page) {j : Nat} (h : j < 9) :
    p.toList.drop j = dataByte p j :: p.toList.drop (j + 1) := by
  rw [List.drop_eq_getElem_cons (by simpa using h)]
  simp [dataByte, Vector.getElem?_eq_getElem h]

/-- The loop that writes the page bytes (R202), from byte `j` on. -/
theorem run_loadLoop (k j : Nat) (hj : j + k = 8) {s : State} {rest : List Micro} (hr : s.running = true)
    (hs : s.seq = .loadData :: .writeSlot :: .nextData :: rest) (hc : s.byteCnt = BitVec.ofNat 4 j) :
    ∃ sh, ctrlSteps (34 * (k + 1)) s =
      { s with
        busState := .bitSlot
        lineDrive := false
        slot := 0
        byteCnt := 8
        shift := sh
        seq := rest
        epoch := s.epoch + 34 * (k + 1)
        dev := devAfterWritten s.line s.dev (s.data.toList.drop j)
        trace := ((s.data.toList.drop j).flatMap frameWriteByte).reverse ++ s.trace } := by
  have hcn : s.byteCnt.toNat = j := by rw [hc]; simp; omega
  have hv := run_loadTurn hr hs
  have hd := drop_eq_dataByte s.data (j := j) (by omega)
  induction k generalizing s j with
  | zero =>
    have : j = 8 := by omega
    subst this
    have h9 : s.data.toList.drop 9 = [] := by simp
    refine ⟨dataByte s.data 8, ?_⟩
    rw [show 34 * (0 + 1) = 34 from rfl, hv, hd]
    simp [hc, h9, devAfterWritten]
  | succ k ih =>
    have hlt : j < 8 := by omega
    rw [hcn, if_pos hlt, if_pos hlt] at hv
    have hr2 : (ctrlSteps 34 s).running = true := by rw [hv]; simpa [State.running] using hr
    have hs2 : (ctrlSteps 34 s).seq = .loadData :: .writeSlot :: .nextData :: rest := by rw [hv]
    have hc2 : (ctrlSteps 34 s).byteCnt = BitVec.ofNat 4 (j + 1) := by rw [hv, BitVec.ofNat_add]; simp [hc]
    obtain ⟨sh, hw⟩ := ih (j + 1) (by omega) hr2 hs2 hc2 (by rw [hc2]; simp; omega) (run_loadTurn hr2 hs2)
      (drop_eq_dataByte _ (by omega))
    refine ⟨sh, ?_⟩
    rw [show 34 * (k + 1 + 1) = 34 + 34 * (k + 1) by omega, ctrlSteps_add, hw, hv, hd]
    simp [devAfterWritten, Nat.add_assoc, Nat.mul_add]

/-- The device after the first handshake and the nine data bytes of a page write. -/
def devAtCopy (l : Line) (d : RefDevice) (n : Byte) (p : Page) : RefDevice :=
  devAfterWritten l (devAfterHandshake l d 0x4E n) p.toList

/-- The first handshake of `WritePage(n)` with its nine bytes (R202). -/
theorem run_writeData {s : State} {code : ResultCode} {n : Byte} {rest : List Micro} (hr : s.running = true)
    (hs : s.seq = handshakeOps code 0x4E n ++ .firstByte :: .loadData :: .writeSlot :: .nextData :: rest)
    (hp : s.presenceLevel = false) :
    ∃ sh, ctrlSteps 413 s =
      { s with
        busState := .bitSlot
        lineDrive := false
        present := true
        vbit := false
        slot := 0
        byteCnt := 8
        shift := sh
        seq := rest
        epoch := s.epoch + 413
        samples := samplesAfter s.line s.samples
        draws := s.draws + 1
        dev := devAtCopy s.line s.dev n s.data
        trace := (frameHandshake 0x4E n ++ s.data.toList.flatMap frameWriteByte).reverse ++ s.trace } := by
  have e1 := run_handshake hr hs hp
  have e2 := ctrlStep_cons (s := ctrlSteps 106 s) (m := .firstByte) (rest := .loadData :: .writeSlot :: .nextData :: rest)
    (by rw [e1]; simpa [State.running] using hr) (by rw [e1])
  obtain ⟨sh, e3⟩ := run_loadLoop 8 0 rfl (s := ctrlStep (ctrlSteps 106 s)) (rest := rest)
    (by rw [e2, e1]; simpa [micro, State.running] using hr) (by rw [e2]; rfl) (by rw [e2]; rfl)
  refine ⟨sh, ?_⟩
  rw [show 413 = 106 + (1 + 34 * (8 + 1)) from rfl, ctrlSteps_add, ctrlSteps_add 1,
    show ∀ t, ctrlSteps 1 t = ctrlStep t from fun _ => rfl, e3, e2, e1]
  simp [micro, State.pop, devAtCopy, Nat.add_assoc]

/-- `WritePage(n)` when both resets find a device (R202). -/
theorem run_writePage {s : State} {code : ResultCode} {n : Byte} {rest : List Micro} (hr : s.running = true)
    (hs : s.seq = writePageOps code n ++ rest) (hp : s.presenceLevel = false)
    (hp2 : presenceLevelOf s.line (samplesAfter s.line s.samples) (s.draws + 1) (devAtCopy s.line s.dev n s.data) = false) :
    ctrlSteps 519 s =
      { s with
        busState := .bitSlot
        lineDrive := false
        present := true
        vbit := false
        slot := 0
        byteCnt := 8
        shift := n
        seq := rest
        epoch := s.epoch + 519
        samples := samplesAfter s.line (samplesAfter s.line s.samples)
        draws := s.draws + 2
        dev := devAfterHandshake s.line (devAtCopy s.line s.dev n s.data) 0x48 n
        trace := (frameWritePage n s.data).reverse ++ s.trace } := by
  obtain ⟨sh, e1⟩ := run_writeData (code := code) (n := n) (rest := handshakeOps code 0x48 n ++ rest) hr
    (by simpa [writePageOps] using hs) hp
  have e2 := run_handshake (s := ctrlSteps 413 s) (code := code) (c := 0x48) (n := n) (rest := rest)
    (by rw [e1]; simpa [State.running] using hr) (by rw [e1]) (by rw [e1]; exact hp2)
  rw [show 519 = 413 + 106 from rfl, ctrlSteps_add, e2, e1]
  simp [frameWritePage, Nat.add_assoc]

/-- `StartConversion(cmd)` when the reset finds a device (R291). -/
theorem run_startConversion {s : State} {c : Byte} {rest : List Micro} (hr : s.running = true)
    (hs : s.seq = startConversionOps c ++ rest) (hp : s.presenceLevel = false) :
    ctrlSteps 73 s =
      { s with
        busState := .bitSlot
        lineDrive := false
        present := true
        vbit := false
        slot := 0
        shift := c
        seq := rest
        epoch := s.epoch + 73
        samples := samplesAfter s.line s.samples
        draws := s.draws + 1
        dev := devAfterByte s.line (devAfterByte s.line (devAfterReset s.line s.dev) 0xCC) c
        trace := (frameStart c).reverse ++ s.trace } := by
  have e1 := run_reset (rest := .command 0xCC :: .command c :: rest) hr (by simpa [startConversionOps] using hs)
  have e2 := run_command (s := ctrlSteps 7 s) (x := 0xCC) (rest := .command c :: rest)
    (by rw [e1]; simpa [State.running] using hr) (by rw [e1]; simp [seqAfterReset, hp])
  have e3 := run_command (s := ctrlSteps 33 (ctrlSteps 7 s)) (x := c) (rest := rest)
    (by rw [e2, e1]; simpa [State.running] using hr) (by rw [e2])
  rw [show 73 = 7 + (33 + 33) from rfl, ctrlSteps_add, ctrlSteps_add 33, e3, e2, e1]
  simp [hp, frameStart, Nat.add_assoc]

end Sys2Proof.Machine
end

