-- ==== Sys2Proof/Laws/Line.lean ====
section
/-! SUPPORT. The laws of the LINE: the free LINE by levels, and the reference device by whole bytes. -/

namespace Sys2Proof.Machine

/-! The free LINE leaves the device alone and spends one level a sample. -/

@[simp] theorem devAfterReset_free (d : RefDevice) : devAfterReset .free d = d := rfl
@[simp] theorem devAfterRead_free (d : RefDevice) : devAfterRead .free d = d := rfl
@[simp] theorem devAfterWrite_free (d : RefDevice) (b : Bool) : devAfterWrite .free d b = d := rfl
@[simp] theorem samplesAfter_free (q : List Bool) : samplesAfter .free q = q.drop 1 := by simp [samplesAfter]

@[simp] theorem devAfterByte_free (d : RefDevice) (x : Byte) : devAfterByte .free d x = d := by
  have : ∀ (bs : List Bool), bs.foldl (devAfterWrite .free) d = d := by
    intro bs
    induction bs with
    | nil => rfl
    | cons b bs ih => simpa using ih
  exact this _

@[simp] theorem devAfterHandshake_free (d : RefDevice) (c n : Byte) : devAfterHandshake .free d c n = d := by
  simp [devAfterHandshake]

@[simp] theorem devAfterReads_free (n : Nat) (d : RefDevice) : devAfterReads n .free d = d := by
  induction n with
  | zero => rfl
  | succ n ih => simpa [devAfterReads] using ih

@[simp] theorem devAfterBytes_free (n : Nat) (d : RefDevice) : devAfterBytes n .free d = d := by
  induction n with
  | zero => rfl
  | succ n ih => simpa [devAfterBytes] using ih

@[simp] theorem devAtRead_free (d : RefDevice) (n : Byte) : devAtRead .free d n = d := by simp [devAtRead]

@[simp] theorem devAfterWritten_free (d : RefDevice) (bs : List Byte) : devAfterWritten .free d bs = d := by
  induction bs with
  | nil => rfl
  | cons b bs ih => simpa [devAfterWritten] using ih

@[simp] theorem devAtCopy_free (d : RefDevice) (n : Byte) (p : Page) : devAtCopy .free d n p = d := by simp [devAtCopy]

@[simp] theorem samplesAfterReads_free (n : Nat) (q : List Bool) : samplesAfterReads n .free q = q.drop n := by
  induction n generalizing q with
  | zero => rfl
  | succ n ih => simp [samplesAfterReads, ih]

@[simp] theorem samplesAfterBytes_free (n : Nat) (q : List Bool) : samplesAfterBytes n .free q = q.drop (8 * n) := by
  induction n generalizing q with
  | zero => rfl
  | succ n ih => rw [samplesAfterBytes, ih]; simp [List.drop_drop]; congr 1; omega

/-- The k-th level of a free LINE with the listed levels `q` and `n` samples drawn so far. -/
def levelOf (q : List Bool) (n k : Nat) : Bool := (q[k]?).getD (Config.lineLevel (n + k))

theorem levelOf_drop (q : List Bool) (n j k : Nat) : levelOf (q.drop j) (n + j) k = levelOf q n (j + k) := by
  simp [levelOf, Nat.add_assoc]

@[simp] theorem levelOf_tail (q : List Bool) (n k : Nat) : levelOf q.tail (n + 1) k = levelOf q n (k + 1) := by
  simpa [Nat.add_comm] using levelOf_drop q n 1 k

theorem freeLevel_eq (q : List Bool) (n : Nat) : freeLevel q n = levelOf q n 0 := by
  cases q <;> simp [freeLevel, levelOf]

@[simp] theorem presenceLevelOf_free (q : List Bool) (n : Nat) (d : RefDevice) :
    presenceLevelOf .free q n d = levelOf q n 0 := by simp [presenceLevelOf, freeLevel_eq]

theorem getElem?_readLevels_free {m i : Nat} (h : i < m) (q : List Bool) (n : Nat) (d : RefDevice) :
    (readLevels m .free q n d)[i]? = some (levelOf q n i) := by
  induction m generalizing q n i with
  | zero => omega
  | succ m ih =>
    cases i with
    | zero => simp [readLevels, slotLevelOf, freeLevel_eq]
    | succ i =>
      simp only [readLevels, List.getElem?_cons_succ, samplesAfter_free, devAfterRead_free]
      rw [ih (Nat.lt_of_succ_lt_succ h), levelOf_drop, Nat.add_comm]

/-- Bit i of a received byte is the i-th level (R168). -/
theorem getLsbD_receivedByte {bits : List Bool} (h : bits.length = 8) {i : Nat} (hi : i < 8) :
    (receivedByte bits).getLsbD i = (bits[i]?).getD false := by
  have hb : (byteBits (receivedByte bits))[i]? = some ((receivedByte bits).getLsbD i) := by simp [byteBits, hi]
  rw [byteBits_receivedByte h] at hb
  rw [hb]
  rfl

theorem getElem?_readBytes_free {m j : Nat} (h : j < m) (q : List Bool) (n : Nat) (d : RefDevice) :
    (readBytes m .free q n d)[j]? = some (receivedByte (readLevels 8 .free (q.drop (8 * j)) (n + 8 * j) d)) := by
  induction m generalizing q n j with
  | zero => omega
  | succ m ih =>
    cases j with
    | zero => simp [readBytes]
    | succ j =>
      simp only [readBytes, List.getElem?_cons_succ, devAfterReads_free, samplesAfterReads_free]
      rw [ih (by omega), List.drop_drop, show 8 + 8 * j = 8 * (j + 1) by omega, show n + 8 + 8 * j = n + 8 * (j + 1) by omega]

/-- Bit i of byte k of the page a free LINE gives is the level 8 * k + i (R95, R201). -/
theorem getLsbD_nextPage_free {k i : Nat} (hk : k < 9) (hi : i < 8) (q : List Bool) (n : Nat) (d : RefDevice) :
    (dataByte (nextPage .free q n d) k).getLsbD i = levelOf q n (8 * k + i) := by
  rw [dataByte, nextPage, (storeFrom_nine (readBytes_length 9 _ _ _ _) (Vector.replicate 9 0)).2, List.getD_eq_getElem?_getD,
    getElem?_readBytes_free hk, Option.getD_some, getLsbD_receivedByte (readLevels_length _ _ _ _ _) hi,
    getElem?_readLevels_free hi, Option.getD_some, levelOf_drop]

end Sys2Proof.Machine
end

