-- ==== Sys2Proof/Laws/Commands.lean ====
section
/-! SUPPORT. What CTRL never touches, what `settle` and `runCommand` do, and how an accepted operation starts and ends. -/

namespace Sys2Proof.Machine

/-- What no CTRL step changes: the ports' and the model's own fields, the enables, and the latched command. -/
theorem micro_frame (m : Micro) (s : State) :
    (micro m s).rstN = s.rstN ∧ (micro m s).cmd = s.cmd ∧ (micro m s).ovr = s.ovr ∧ (micro m s).ie = s.ie
      ∧ (micro m s).opl = s.opl ∧ (micro m s).argl = s.argl ∧ (micro m s).resp = s.resp
      ∧ (micro m s).inputs = s.inputs ∧ (micro m s).gap = s.gap ∧ (micro m s).line = s.line := by
  cases m
  case nextData => by_cases h : s.byteCnt.toNat < 8 <;> simp [micro, nextData, h]
  case storeData => by_cases h : s.byteCnt.toNat < 8 <;> simp [micro, storeData, h]
  case pollReady k => by_cases h : readyOfByte k (dataByte s.data 0) <;> simp [micro, pollReady, h]
  case finish c => by_cases h : c = .ok <;> simp [micro, finish, State.scrambleOutputs, h]
  all_goals
    simp [micro, latchPresence, samplePresence, sampleBit, releaseBit, writeSlot, readSlot, shiftIn, loadByte, startCommand,
      State.waitFor, State.emit]

theorem ctrlStep_frame (s : State) :
    (ctrlStep s).rstN = s.rstN ∧ (ctrlStep s).cmd = s.cmd ∧ (ctrlStep s).ovr = s.ovr ∧ (ctrlStep s).ie = s.ie
      ∧ (ctrlStep s).opl = s.opl ∧ (ctrlStep s).argl = s.argl ∧ (ctrlStep s).resp = s.resp
      ∧ (ctrlStep s).inputs = s.inputs ∧ (ctrlStep s).gap = s.gap ∧ (ctrlStep s).line = s.line := by
  unfold ctrlStep
  split
  · split
    · simp
    · simpa using micro_frame _ (s.pop _)
  · simp

theorem ctrlSteps_frame (n : Nat) (s : State) :
    (ctrlSteps n s).rstN = s.rstN ∧ (ctrlSteps n s).cmd = s.cmd ∧ (ctrlSteps n s).ovr = s.ovr
      ∧ (ctrlSteps n s).ie = s.ie ∧ (ctrlSteps n s).opl = s.opl ∧ (ctrlSteps n s).argl = s.argl
      ∧ (ctrlSteps n s).resp = s.resp ∧ (ctrlSteps n s).inputs = s.inputs ∧ (ctrlSteps n s).gap = s.gap
      ∧ (ctrlSteps n s).line = s.line := by
  induction n generalizing s with
  | zero => simp [ctrlSteps]
  | succ n ih =>
    obtain ⟨a1, a2, a3, a4, a5, a6, a7, a8, a9, a10⟩ := ih (ctrlStep s)
    obtain ⟨b1, b2, b3, b4, b5, b6, b7, b8, b9, b10⟩ := ctrlStep_frame s
    simp only [ctrlSteps]
    exact ⟨a1.trans b1, a2.trans b2, a3.trans b3, a4.trans b4, a5.trans b5, a6.trans b6, a7.trans b7, a8.trans b8,
      a9.trans b9, a10.trans b10⟩

/-- The state right after an accepted command (R148). -/
def accepted (w : CmdWord) (ops : List Micro) (s : State) : State :=
  { s with
    cmd := w
    opl := w.extractLsb' 8 8
    argl := w.extractLsb' 0 8
    done := false
    busy := true
    seq := ops
    epoch := s.epoch + 1 }

section

variable (w : CmdWord) (ops : List Micro) (s : State)

@[simp] theorem accepted_rstN : (accepted w ops s).rstN = s.rstN := rfl
@[simp] theorem accepted_line : (accepted w ops s).line = s.line := rfl
@[simp] theorem accepted_samples : (accepted w ops s).samples = s.samples := rfl
@[simp] theorem accepted_draws : (accepted w ops s).draws = s.draws := rfl
@[simp] theorem accepted_dev : (accepted w ops s).dev = s.dev := rfl
@[simp] theorem accepted_trace : (accepted w ops s).trace = s.trace := rfl
@[simp] theorem accepted_data : (accepted w ops s).data = s.data := rfl
@[simp] theorem accepted_present : (accepted w ops s).present = s.present := rfl
@[simp] theorem accepted_epoch : (accepted w ops s).epoch = s.epoch + 1 := rfl
@[simp] theorem accepted_lineDrive : (accepted w ops s).lineDrive = s.lineDrive := rfl
@[simp] theorem accepted_rxdata : (accepted w ops s).rxdata = s.rxdata := rfl
@[simp] theorem accepted_temp : (accepted w ops s).temp = s.temp := rfl
@[simp] theorem accepted_volt : (accepted w ops s).volt = s.volt := rfl
@[simp] theorem accepted_curr : (accepted w ops s).curr = s.curr := rfl
@[simp] theorem accepted_cap : (accepted w ops s).cap = s.cap := rfl
@[simp] theorem accepted_ready : (accepted w ops s).ready = s.ready := rfl
@[simp] theorem accepted_seq : (accepted w ops s).seq = ops := rfl
@[simp] theorem accepted_busy : (accepted w ops s).busy = true := rfl
@[simp] theorem accepted_done : (accepted w ops s).done = false := rfl
@[simp] theorem accepted_presenceLevel : (accepted w ops s).presenceLevel = s.presenceLevel := rfl
@[simp] theorem accepted_slotLevel : (accepted w ops s).slotLevel = s.slotLevel := rfl

end

theorem offer_accepts {s : State} (hr : s.rstN = true) (hb : s.busy = false) (w : CmdWord) (ops : List Micro) :
    offer w ops s = accepted w ops s := by
  simp [offer, hr, hb, accepted]

theorem offer_drops {s : State} (hr : s.rstN = true) (hb : s.busy = true) (w : CmdWord) (ops : List Micro) :
    offer w ops s = { s with ovr := true, epoch := s.epoch + 1 } := by
  simp [offer, hr, hb]

theorem offer_in_reset {s : State} (hr : s.rstN = false) (w : CmdWord) (ops : List Micro) : offer w ops s = s := by
  simp [offer, hr]

theorem accepted_running {s : State} (hr : s.rstN = true) (w : CmdWord) (ops : List Micro) :
    (accepted w ops s).running = true := by
  simp [State.running, accepted, hr]

/-- A completed operation: CTRL has nothing more to do, so the rest of the gap changes nothing. -/
theorem ctrlSteps_finish {s t : State} {c : ResultCode} {n m : Nat} (h : ctrlSteps n s = finish c t) :
    ctrlSteps (n + m) s = finish c t := by
  rw [ctrlSteps_add, h, ctrlSteps_idle]
  simp [State.running, finish]

/-- A command accepted by an idle block that finishes within the gap. -/
theorem runCommand_finish {s t : State} {w : CmdWord} {ops : List Micro} {c : ResultCode} {n : Nat} (hr : s.rstN = true)
    (hb : s.busy = false) (hg : n ≤ s.gap) (h : ctrlSteps n (accepted w ops s) = finish c t) :
    runCommand w ops s = .next { finish c t with gap := 0 } := by
  obtain ⟨m, hm⟩ := Nat.le.dest hg
  have hgap : (accepted w ops s).gap = n + m := by simp [accepted, hm]
  rw [runCommand, offer_accepts hr hb, settle, hgap, ctrlSteps_finish h]

/-- One more position after a run. -/
theorem run_then {s t : State} {n : Nat} {m : Micro} {rest : List Micro} (h : ctrlSteps n s = t) (hr : t.running = true)
    (hs : t.seq = m :: rest) : ctrlSteps (n + 1) s = micro m (t.pop rest) := by
  rw [ctrlSteps_add, h, show ctrlSteps 1 t = ctrlStep t from rfl, ctrlStep_cons hr hs]

/-- The last position of an operation that succeeds. -/
theorem run_finish_ok {s : State} {n : Nat} {t : State} {rest : List Micro} (h : ctrlSteps n s = t)
    (hr : t.running = true) (hs : t.seq = .finish .ok :: rest) :
    ctrlSteps (n + 1) s = finish .ok (t.pop rest) := by
  rw [ctrlSteps_add, h, show ctrlSteps 1 t = ctrlStep t from rfl, ctrlStep_cons hr hs]
  rfl

theorem level_eq (s : State) (k : Nat) : s.level k = levelOf s.samples s.draws k := rfl

/-- The page a free LINE gives after `j` samples is the one sampled from level `j` on (R95, R201). -/
theorem pageSampled_nextPage (s : State) (j : Nat) (d : RefDevice) :
    PageSampled s j (nextPage .free (s.samples.drop j) (s.draws + j) d) := by
  intro k hk i hi
  rw [getLsbD_nextPage_free hk hi, levelOf_drop, level_eq, Nat.add_assoc]

/-- A command accepted by an idle block whose positions run to the completion with OK, within the gap. -/
theorem runCommand_ok {s u : State} {w : CmdWord} {ops rest : List Micro} {n : Nat} (hi : IdleFor (n + 1) s)
    (h : ctrlSteps n (accepted w ops s) = u) (hr : u.running = true) (hs : u.seq = .finish .ok :: rest) :
    runCommand w ops s = .next { finish .ok (u.pop rest) with gap := 0 } :=
  runCommand_finish hi.1 hi.2.1 hi.2.2 (run_finish_ok h hr hs)

theorem extract_op (op arg : Byte) : (cmdWord op arg).extractLsb' 8 8 = op := opField_cmdWord op arg

theorem extract_arg (op arg : Byte) : (cmdWord op arg).extractLsb' 0 8 = arg := argField_cmdWord op arg

end Sys2Proof.Machine
end

