-- ==== Sys2Proof/Laws/Device.lean ====
section
/-! SUPPORT. The reference device (20_memory.md R110 to R122): its memories keep their canonical form, and what it does with
whole bytes, handshakes and pages. -/

namespace Sys2Proof.Machine

/-- Both memories of the device are in canonical form. -/
def RefDevice.Wf (d : RefDevice) : Prop := d.mem.wf = true ∧ d.sp.wf = true

theorem reset_memory_wf : State.reset.dev.mem.wf = true ∧ State.reset.dev.sp.wf = true := ⟨rfl, rfl⟩

/-! The start of a configuration (R122). -/

section

variable (c : DeviceConfig) (s : State)

@[simp] theorem start_present : (RefDevice.start c).present = c.present := rfl
@[simp] theorem start_mem : (RefDevice.start c).mem = c.mem := rfl
@[simp] theorem start_sp : (RefDevice.start c).sp = c.mem := rfl
@[simp] theorem start_mode : (RefDevice.start c).mode = .idle := rfl
@[simp] theorem start_vleft : (RefDevice.start c).vleft = some 0 := rfl
@[simp] theorem start_tleft : (RefDevice.start c).tleft = some 0 := rfl
@[simp] theorem start_kV : (RefDevice.start c).kV = c.kV := rfl
@[simp] theorem start_kT : (RefDevice.start c).kT = c.kT := rfl
@[simp] theorem start_vResult : (RefDevice.start c).vResult = c.vResult := rfl
@[simp] theorem start_tResult : (RefDevice.start c).tResult = c.tResult := rfl
@[simp] theorem withDevice_line : (s.withDevice c).line = .reference := rfl
@[simp] theorem withDevice_dev : (s.withDevice c).dev = RefDevice.start c := rfl
@[simp] theorem withDevice_inputs : (s.withDevice c).inputs = s.inputs := rfl
@[simp] theorem withDevice_data : (s.withDevice c).data = s.data := rfl

end

theorem start_wf {c : DeviceConfig} (h : c.mem.wf = true) : (RefDevice.start c).Wf := ⟨h, h⟩

theorem blank_eq_start : RefDevice.blank = RefDevice.start ⟨false, [], some 0, some 0, (0, 0), (0, 0)⟩ := rfl

theorem convUpdate_wf {m : Memory} (h : m.wf = true) (b lo : Nat) (r : Byte × Byte) (left : Option Nat) :
    (convUpdate b lo r left m).1.wf = true := by
  unfold convUpdate
  repeat' split
  all_goals first
    | exact h
    | exact Memory.wf_setPageByte (Memory.wf_setPageByte (Memory.wf_setPageByte h _ _ _) _ _ _) _ _ _

theorem updateConversions_wf {d : RefDevice} (h : d.Wf) : d.updateConversions.Wf :=
  ⟨convUpdate_wf (convUpdate_wf h.1 _ _ _ _) _ _ _ _, h.2⟩

theorem receiveByte_wf {d : RefDevice} (h : d.Wf) (b : Byte) : (d.receiveByte b).Wf := by
  unfold RefDevice.receiveByte RefDevice.receivePage RefDevice.recall RefDevice.copy RefDevice.startVoltage
    RefDevice.startTemperature
  repeat' split
  all_goals first
    | exact h
    | exact ⟨h.1, Memory.wf_setPageByte h.2 _ _ _⟩
    | exact ⟨Memory.wf_setPageByte h.1 _ _ _, h.2⟩
    | exact ⟨Memory.wf_copyPage h.1 _ _ _, h.2⟩
    | exact ⟨h.1, Memory.wf_copyPage h.2 _ _ _⟩
    | exact ⟨(updateConversions_wf h).1, Memory.wf_copyPage h.2 _ _ _⟩

theorem writeBit_wf {d : RefDevice} (h : d.Wf) (b : Bool) : (d.writeBit b).Wf := by
  unfold RefDevice.writeBit
  split
  · dsimp only
    split
    · exact h
    · exact receiveByte_wf (d := { d with rxByte := 0, rxBits := 0 }) h _
  · exact h

theorem readSlot_wf {d : RefDevice} (h : d.Wf) : d.readSlot.Wf := by
  unfold RefDevice.readSlot
  repeat' split
  all_goals exact h

/-- Whatever stands at the pin, the device's memories keep their canonical form in every event of the line. -/
theorem devAfter_wf (l : Line) {d : RefDevice} (h : d.Wf) :
    (devAfterReset l d).Wf ∧ (devAfterRead l d).Wf ∧ ∀ b, (devAfterWrite l d b).Wf := by
  cases l
  · exact ⟨h, h, fun _ => h⟩
  · exact ⟨h, readSlot_wf h, writeBit_wf h⟩

/-- A device between bytes: present, with no bit of a byte received yet (R112). -/
def RefDevice.Ready (d : RefDevice) : Prop := d.present = true ∧ d.rxByte = 0 ∧ d.rxBits = 0

/-- A byte with bit `k` set when the written bit is 1 (R112). -/
def addBit (r : Byte) (k : Nat) (b : Bool) : Byte := if b then r ||| BitVec.twoPow 8 k else r

theorem assembled_byte (x : Byte) : (List.range 8).foldl (fun r k => addBit r k (x.getLsbD k)) (0 : Byte) = x := by
  revert x
  decide +kernel

theorem writeBit_more {d : RefDevice} (hp : d.present = true) (hk : d.rxBits + 1 < 8) (b : Bool) :
    d.writeBit b = { d with rxByte := addBit d.rxByte d.rxBits b, rxBits := d.rxBits + 1 } := by
  rw [RefDevice.writeBit, if_pos hp]
  dsimp only
  rw [if_pos hk]
  rfl

theorem writeBit_last {d : RefDevice} (hp : d.present = true) (hk : d.rxBits = 7) (b : Bool) :
    d.writeBit b = { d with rxByte := 0, rxBits := 0 }.receiveByte (addBit d.rxByte 7 b) := by
  rw [RefDevice.writeBit, if_pos hp]
  dsimp only
  rw [if_neg (by omega), hk]
  rfl

theorem writeBits_partial {d : RefDevice} (h : d.Ready) (x : Byte) {m : Nat} (hm : m ≤ 7) :
    (List.range m).foldl (fun e k => e.writeBit (x.getLsbD k)) d
      = { d with rxByte := (List.range m).foldl (fun r k => addBit r k (x.getLsbD k)) 0, rxBits := m } := by
  induction m with
  | zero =>
    show d = { d with rxByte := 0, rxBits := 0 }
    rw [← h.2.1, ← h.2.2]
  | succ m ih =>
    rw [List.range_succ, List.foldl_append, ih (by omega), List.foldl_append]
    exact writeBit_more (d := { d with
      rxByte := (List.range m).foldl (fun r k => addBit r k (x.getLsbD k)) 0, rxBits := m }) h.1 (show m + 1 < 8 by omega) _

/-- Eight write slots are one received byte (R112). -/
theorem devAfterByte_reference {d : RefDevice} (h : d.Ready) (x : Byte) : devAfterByte .reference d x = d.receiveByte x := by
  have hd : { d with rxByte := 0, rxBits := 0 } = d := by rw [← h.2.1, ← h.2.2]
  have hx := assembled_byte x
  rw [List.range_succ, List.foldl_append] at hx
  rw [devAfterByte, byteBits, List.foldl_map, List.range_succ, List.foldl_append]
  show ((List.range 7).foldl (fun e k => e.writeBit (x.getLsbD k)) d).writeBit (x.getLsbD 7) = _
  rw [writeBits_partial h x (by omega)]
  exact (writeBit_last (d := { d with
    rxByte := (List.range 7).foldl (fun r k => addBit r k (x.getLsbD k)) 0, rxBits := 7 }) h.1 rfl _).trans
    (congrArg₂ RefDevice.receiveByte hd hx)

/-- After a bus reset a present device is between bytes and awaits a ROM command (R111). -/
theorem busReset_ready {d : RefDevice} (h : d.present = true) : d.busReset.Ready := ⟨h, rfl, rfl⟩

/-- The device with a mode. -/
def RefDevice.withMode (d : RefDevice) (m : DevMode) : RefDevice := { d with mode := m }

/-- SkipROM and one of the four commands with a page byte, of a legal page (R112, R136). -/
theorem devAfterHandshake_reference {d : RefDevice} (hp : d.present = true) {c n : Byte}
    (hc : c = 0xB8 ∨ c = 0xBE ∨ c = 0x4E ∨ c = 0x48) :
    devAfterHandshake .reference d c n = (d.busReset.withMode (.awaitPage c)).receivePage c n.toNat := by
  have hcall : (d.busReset.withMode .awaitFunc).receiveByte c = d.busReset.withMode (.awaitPage c) := by
    simp only [RefDevice.receiveByte, RefDevice.withMode]
    rw [if_pos hc]
  rw [devAfterHandshake, devAfterReset, devAfterByte_reference (busReset_ready hp),
    show d.busReset.receiveByte 0xCC = d.busReset.withMode .awaitFunc from rfl,
    devAfterByte_reference (d := d.busReset.withMode .awaitFunc) ⟨hp, rfl, rfl⟩, hcall,
    devAfterByte_reference (d := d.busReset.withMode (.awaitPage c)) ⟨hp, rfl, rfl⟩]
  rfl

/-- The written bytes from byte `k` of page `n` on, up to the end of the page (R115). -/
theorem devAfterWritten_reference {d : RefDevice} (h : d.Ready) {n k : Nat} (bs : List Byte) (hb : bs ≠ [])
    (hk : k + bs.length = 9) (hm : d.mode = .rxData n k) :
    devAfterWritten .reference d bs = { d with sp := Memory.setBytes d.sp n k bs, mode := .idle } := by
  induction bs generalizing d k with
  | nil => exact absurd rfl hb
  | cons b bs ih =>
    simp at hk
    have e : devAfterByte .reference d b
        = { d with sp := d.sp.setPageByte n k b, mode := if k + 1 < 9 then .rxData n (k + 1) else .idle } := by
      rw [devAfterByte_reference h]
      simp only [RefDevice.receiveByte, hm]
      rfl
    rw [show devAfterWritten .reference d (b :: bs) = devAfterWritten .reference (devAfterByte .reference d b) bs from rfl, e]
    cases bs with
    | nil =>
      have : k = 8 := by simpa using hk
      subst this
      rfl
    | cons b' bs =>
      have h9 : k + 1 < 9 := by simp at hk; omega
      rw [if_pos h9]
      exact ih (d := { d with sp := d.sp.setPageByte n k b, mode := .rxData n (k + 1) }) (k := k + 1) ⟨h.1, h.2.1, h.2.2⟩
        (by simp) (by simp at hk ⊢; omega) rfl

/-- Eight read slots of a page byte (R114): the byte's bits, and the next byte. -/
theorem reads_reference {d : RefDevice} (hp : d.present = true) {n k : Nat} (hk : k < 9) (hm : d.mode = .txData n k)
    (ht : d.txBits = 0) (q : List Bool) (c : Nat) :
    readLevels 8 .reference q c d = byteBits (d.sp.pageByte n k)
      ∧ devAfterReads 8 .reference d = { d with mode := .txData n (k + 1) } := by
  have hk' : k < Config.pageBytes := hk
  constructor
  · simp [readLevels, slotLevelOf, devAfterRead, RefDevice.readLevel, RefDevice.readSlot, hp, hm, hk', ht, byteBits,
      List.range_succ]
  · simp [devAfterReads, devAfterRead, RefDevice.readSlot, hp, hm, hk', ht]

theorem receivedByte_byteBits (x : Byte) : receivedByte (byteBits x) = x := by
  apply BitVec.eq_of_getLsbD_eq
  intro i hi
  rw [getLsbD_receivedByte (by simp [byteBits]) hi]
  simp [byteBits, hi]

/-- The bytes of a scratchpad page from byte `k` on (R114). -/
theorem readBytes_reference {d : RefDevice} (hp : d.present = true) {n k m : Nat} (hk : k + m ≤ 9) (hm : d.mode = .txData n k)
    (ht : d.txBits = 0) (q : List Bool) (c : Nat) :
    readBytes m .reference q c d = (List.range' k m).map (d.sp.pageByte n)
      ∧ devAfterBytes m .reference d = { d with mode := .txData n (k + m) } := by
  induction m generalizing d k q c with
  | zero => exact ⟨rfl, by rw [← show d.mode = .txData n (k + 0) from hm]; rfl⟩
  | succ m ih =>
    obtain ⟨e1, e2⟩ := reads_reference hp (show k < 9 by omega) hm ht q c
    have := ih (d := { d with mode := .txData n (k + 1) }) (k := k + 1) hp (by omega) rfl ht (samplesAfterReads 8 .reference q) (c + 8)
    rw [readBytes, devAfterBytes, e1, e2, this.1, this.2, receivedByte_byteBits]
    exact ⟨rfl, by rw [show k + 1 + m = k + (m + 1) by omega]⟩

/-- A page write to a present device (R115, R116): the page's bytes in its memory are those sent. -/
theorem writePage_reference {d : RefDevice} (hp : d.present = true) (hw : d.Wf) {n : Byte} (hn : n.toNat ≤ 7) (p : Page) :
    (devAtCopy .reference d n p).present = true
      ∧ (devAfterHandshake .reference (devAtCopy .reference d n p) 0x48 n).present = true
      ∧ (devAfterHandshake .reference (devAtCopy .reference d n p) 0x48 n).Wf
      ∧ ∀ k, k < 9 →
        (devAfterHandshake .reference (devAtCopy .reference d n p) 0x48 n).mem.pageByte n.toNat k = dataByte p k := by
  have e1 : devAfterHandshake .reference d 0x4E n = d.busReset.withMode (.rxData n.toNat 0) := by
    rw [devAfterHandshake_reference hp (by decide), RefDevice.receivePage, if_neg (by omega)]
    rfl
  have e2 : devAtCopy .reference d n p
      = { d.busReset.withMode (.rxData n.toNat 0) with sp := Memory.setBytes d.sp n.toNat 0 p.toList, mode := .idle } := by
    rw [devAtCopy, e1]
    exact devAfterWritten_reference (d := d.busReset.withMode (.rxData n.toNat 0)) ⟨hp, rfl, rfl⟩ (n := n.toNat) (k := 0)
      p.toList (by intro h; simpa using congrArg List.length h) (by simp) rfl
  have hpc : (devAtCopy .reference d n p).present = true := by rw [e2]; exact hp
  have e3 : devAfterHandshake .reference (devAtCopy .reference d n p) 0x48 n
      = ((devAtCopy .reference d n p).busReset.withMode (.awaitPage 0x48)).copy n.toNat := by
    rw [devAfterHandshake_reference hpc (by decide), RefDevice.receivePage, if_neg (by omega)]
    rfl
  refine ⟨hpc, ?_, ?_, ?_⟩
  · rw [e3]
    exact hpc
  · rw [e3, e2]
    exact ⟨Memory.wf_copyPage hw.1 _ _ _, Memory.wf_setBytes hw.2 _ _ _⟩
  · intro k hk
    rw [e3, e2]
    show (Memory.copyPage d.mem (Memory.setBytes d.sp n.toNat 0 p.toList) n.toNat 9).pageByte n.toNat k = _
    rw [Memory.pageByte_copyPage hw.1 _ _ (le_refl _) hk, if_pos ⟨rfl, hk⟩, Memory.pageByte_setBytes hw.2 _ _ (by simp) hk,
      if_pos (by simp; omega)]
    rfl

/-- A page read from a present device whose memory holds the page `p` (R113, R114), with no conversion busy when the page is
page 0 (R119): the bytes read are those of `p`, and the memory is as it was. -/
theorem readPage_reference {d : RefDevice} (hp : d.present = true) (hw : d.Wf) {n : Byte} (hn : n.toNat ≤ 7) (p : Page)
    (hm : ∀ k, k < 9 → d.mem.pageByte n.toNat k = dataByte p k)
    (hb : n = 0 → (dataByte p 0).getLsbD 4 = false ∧ (dataByte p 0).getLsbD 6 = false) :
    (devAfterHandshake .reference d 0xB8 n).present = true
      ∧ (∀ q c, nextPage .reference q c (devAtRead .reference d n) = p)
      ∧ (devAfterBytes 9 .reference (devAtRead .reference d n)).mem = d.mem := by
  set d1 := d.busReset.withMode (.awaitPage 0xB8) with hd1
  have hu : n.toNat = 0 → d1.updateConversions = d1 := by
    intro h0
    have hx := hm 0 (by omega)
    rw [h0] at hx
    have h := hb (BitVec.eq_of_toNat_eq h0)
    have a1 : convUpdate 6 3 d.vResult d.vleft d.mem = (d.mem, d.vleft) := by
      unfold convUpdate
      rw [hx]
      simp only [h.2]
      rfl
    have a2 : convUpdate 4 1 d.tResult d.tleft d.mem = (d.mem, d.tleft) := by
      unfold convUpdate
      rw [hx]
      simp only [h.1]
      rfl
    unfold RefDevice.updateConversions
    rw [show d1.vResult = d.vResult from rfl, show d1.vleft = d.vleft from rfl, show d1.mem = d.mem from rfl,
      show d1.tResult = d.tResult from rfl, show d1.tleft = d.tleft from rfl]
    simp only [a1, a2]
    rfl
  have e1 : devAfterHandshake .reference d 0xB8 n
      = { d1 with sp := Memory.copyPage d.sp d.mem n.toNat 9, mode := .idle } := by
    rw [devAfterHandshake_reference hp (by decide), RefDevice.receivePage, if_neg (by omega), if_pos rfl, RefDevice.recall]
    by_cases h0 : n.toNat = 0
    · simp only [h0, if_true, ← hd1]
      rw [hu h0]
      rfl
    · simp only [h0, if_false]
      rfl
  have hp1 : (devAfterHandshake .reference d 0xB8 n).present = true := by rw [e1]; exact hp
  have e2 : devAtRead .reference d n
      = { (devAfterHandshake .reference d 0xB8 n).busReset with mode := .txData n.toNat 0, txBits := 0 } := by
    rw [devAtRead, devAfterHandshake_reference hp1 (by decide), RefDevice.receivePage, if_neg (by omega)]
    rfl
  have hr := fun q c => readBytes_reference (d := devAtRead .reference d n) (by rw [e2]; exact hp1) (n := n.toNat) (k := 0)
    (m := 9) (by omega) (by rw [e2]) (by rw [e2]) q c
  refine ⟨hp1, ?_, ?_⟩
  · intro q c
    rw [nextPage, (hr q c).1, e2, e1]
    apply Vector.toList_inj.1
    rw [(storeFrom_nine (by simp) (Vector.replicate 9 0)).2]
    apply List.ext_getElem
    · simp
    · intro i h1 h2
      simp at h1
      simp only [List.getElem_map, List.getElem_range', Nat.one_mul]
      show (Memory.copyPage d.sp d.mem n.toNat 9).pageByte n.toNat (0 + i) = _
      rw [Memory.pageByte_copyPage hw.2 _ _ (le_refl _) (by omega), if_pos ⟨rfl, by omega⟩, hm (0 + i) (by omega)]
      simp [dataByte, Vector.getElem?_eq_getElem h1]
  · rw [(hr [] 0).2, e2, e1]
    rfl

end Sys2Proof.Machine
end

