-- ==== Sys2Proof/Laws/Ends.lean ====
section
/-! SUPPORT. How soon a sequence of positions ends in `Finish`, whatever the LINE answers (70_reset_and_hazards.md R380). -/

namespace Sys2Proof.Machine

/-- The sequence `seq` reaches a `Finish` in at most `n` CTRL steps, from every state that runs it. -/
def EndsIn (n : Nat) (seq : List Micro) : Prop :=
  ∀ s : State, s.running = true → s.seq = seq → ∃ m, 1 ≤ m ∧ m ≤ n ∧ ∃ c u, ctrlSteps m s = finish c u

theorem EndsIn.mono {n m : Nat} {seq : List Micro} (h : EndsIn n seq) (hn : n ≤ m) : EndsIn m seq := by
  intro s hr hs
  obtain ⟨k, h1, hk, hc⟩ := h s hr hs
  exact ⟨k, h1, by omega, hc⟩

theorem endsIn_finish (c : ResultCode) : EndsIn 1 [.finish c] := by
  intro s hr hs
  exact ⟨1, by omega, by omega, c, s.pop [], ctrlStep_cons hr hs⟩

/-- A run that leaves the rest of the sequence. -/
theorem endsIn_of_run {n k : Nat} {seq rest : List Micro} (h : EndsIn n rest)
    (hk : ∀ s : State, s.running = true → s.seq = seq →
      (ctrlSteps k s).running = true ∧ (ctrlSteps k s).seq = rest) : EndsIn (n + k) seq := by
  intro s hr hs
  obtain ⟨hr2, hs2⟩ := hk s hr hs
  obtain ⟨m, h1, hm, c, u, e⟩ := h _ hr2 hs2
  exact ⟨k + m, by omega, by omega, c, u, by rw [ctrlSteps_add, e]⟩

/-- One position that only goes on to the next. -/
theorem endsIn_one {n : Nat} {m : Micro} {rest : List Micro} (h : EndsIn n rest)
    (hm : ∀ s : State, (micro m s).busy = s.busy ∧ (micro m s).seq = s.seq) : EndsIn (n + 1) (m :: rest) := by
  refine endsIn_of_run h (fun s hr hs => ?_)
  rw [show ctrlSteps 1 s = ctrlStep s from rfl, ctrlStep_cons hr hs]
  have hr' := (running_iff s).1 hr
  exact ⟨(running_iff _).2 ⟨by rw [(micro_frame _ _).1]; exact hr'.1, by rw [(hm _).1]; exact hr'.2⟩, by rw [(hm _).2]; rfl⟩

/-- A bus reset: it goes on, or nothing but a `Finish` remains. -/
theorem endsIn_reset {n : Nat} {c : ResultCode} {rest : List Micro} (h : EndsIn n rest) (hn : 1 ≤ n) :
    EndsIn (n + 7) (resetOps (some c) ++ rest) := by
  intro s hr hs
  cases hp : s.presenceLevel with
  | true =>
    exact ⟨8, by omega, by omega, c, _, run_reset_none hr hs hp⟩
  | false =>
    have e := run_reset hr hs
    obtain ⟨m, h1, hm, c', u, e'⟩ := h (ctrlSteps 7 s) (by rw [e]; exact hr) (by rw [e, hp]; rfl)
    exact ⟨7 + m, by omega, by omega, c', u, by rw [ctrlSteps_add, e']⟩

theorem endsIn_reset_none {n : Nat} {rest : List Micro} (h : EndsIn n rest) : EndsIn (n + 7) (resetOps none ++ rest) :=
  endsIn_of_run h (fun s hr hs => by rw [run_reset hr hs]; exact ⟨hr, rfl⟩)

theorem endsIn_command {n : Nat} {x : Byte} {rest : List Micro} (h : EndsIn n rest) : EndsIn (n + 33) (.command x :: rest) :=
  endsIn_of_run h (fun s hr hs => by rw [run_command hr hs]; exact ⟨hr, rfl⟩)

theorem endsIn_writeByte {n : Nat} {x : Byte} {rest : List Micro} (h : EndsIn n rest) :
    EndsIn (n + 33) (.loadByte x :: .writeSlot :: rest) :=
  endsIn_of_run h (fun s hr hs => by rw [run_loadByte hr hs]; exact ⟨hr, rfl⟩)

theorem endsIn_readByte {n : Nat} {rest : List Micro} (h : EndsIn n rest) :
    EndsIn (n + 57) (.clearByte :: .readSlot :: rest) :=
  endsIn_of_run h (fun s hr hs => by obtain ⟨v, e⟩ := run_readByte hr hs; rw [e]; exact ⟨hr, rfl⟩)

theorem endsIn_readBit {n : Nat} {rest : List Micro} (h : EndsIn n rest) : EndsIn (n + 6) (readBitOps ++ rest) :=
  endsIn_of_run h (fun s hr hs => by rw [run_readBit hr hs]; exact ⟨hr, rfl⟩)

/-- A handshake (R136). -/
theorem endsIn_handshake {n : Nat} {c : ResultCode} {x p : Byte} {rest : List Micro} (h : EndsIn n rest) :
    EndsIn (n + 106) (handshakeOps c x p ++ rest) := by
  have := endsIn_reset (c := c) (endsIn_command (x := 0xCC) (endsIn_command (x := x) (endsIn_writeByte (x := p) h))) (by omega)
  simpa [handshakeOps, writeByteOps, Nat.add_assoc] using this

/-- The loop that reads the page bytes (R201). -/
theorem endsIn_readLoop {n : Nat} {rest : List Micro} (h : EndsIn n rest) :
    EndsIn (n + 523) (.firstByte :: .clearByte :: .readSlot :: .storeData :: rest) := by
  refine endsIn_of_run h (fun s hr hs => ?_)
  have e := ctrlStep_cons hr hs
  obtain ⟨v, sh, e2⟩ := run_storeLoop 8 0 rfl (s := ctrlStep s) (rest := rest) (by rw [e]; exact hr) (by rw [e]; rfl)
    (by rw [e]; rfl)
  rw [show 523 = 1 + 58 * (8 + 1) from rfl, ctrlSteps_add, show ctrlSteps 1 s = ctrlStep s from rfl, e2, e]
  exact ⟨hr, rfl⟩

/-- The loop that writes the page bytes (R202). -/
theorem endsIn_writeLoop {n : Nat} {rest : List Micro} (h : EndsIn n rest) :
    EndsIn (n + 307) (.firstByte :: .loadData :: .writeSlot :: .nextData :: rest) := by
  refine endsIn_of_run h (fun s hr hs => ?_)
  have e := ctrlStep_cons hr hs
  obtain ⟨sh, e2⟩ := run_loadLoop 8 0 rfl (s := ctrlStep s) (rest := rest) (by rw [e]; exact hr) (by rw [e]; rfl)
    (by rw [e]; rfl)
  rw [show 307 = 1 + 34 * (8 + 1) from rfl, ctrlSteps_add, show ctrlSteps 1 s = ctrlStep s from rfl, e2, e]
  exact ⟨hr, rfl⟩

/-- `ReadPage` (R201). -/
theorem endsIn_readPage {n : Nat} {c : ResultCode} {p : Byte} {rest : List Micro} (h : EndsIn n rest) :
    EndsIn (n + 735) (readPageOps c p ++ rest) := by
  have := endsIn_handshake (c := c) (x := 0xB8) (p := p) (endsIn_handshake (c := c) (x := 0xBE) (p := p) (endsIn_readLoop h))
  simpa [readPageOps, readByteOps, Nat.add_assoc] using this

/-- `WritePage` (R202). -/
theorem endsIn_writePage {n : Nat} {c : ResultCode} {p : Byte} {rest : List Micro} (h : EndsIn n rest) :
    EndsIn (n + 519) (writePageOps c p ++ rest) := by
  have := endsIn_handshake (c := c) (x := 0x4E) (p := p) (endsIn_writeLoop (endsIn_handshake (c := c) (x := 0x48) (p := p) h))
  simpa [writePageOps, Nat.add_assoc] using this

/-- `StartConversion` (R291). -/
theorem endsIn_startConversion {n : Nat} {x : Byte} {rest : List Micro} (h : EndsIn n rest) :
    EndsIn (n + 73) (startConversionOps x ++ rest) := by
  have := endsIn_reset (c := .deviceNotFound) (endsIn_command (x := 0xCC) (endsIn_command (x := x) h)) (by omega)
  simpa [startConversionOps, Nat.add_assoc] using this

/-- An accepted command whose sequence ends in at most `n` CTRL steps is done when the gap has that many. -/
theorem runCommand_endsIn {s : State} {w : CmdWord} {ops : List Micro} {n : Nat} (hr : s.rstN = true) (hb : s.busy = false)
    (h : EndsIn n ops) (hg : n ≤ s.gap) : ∃ c u, runCommand w ops s = .next { finish c u with gap := 0 } := by
  obtain ⟨m, -, hm, c, u, e⟩ := h (accepted w ops s) (accepted_running hr _ _) rfl
  exact ⟨c, u, runCommand_finish hr hb (by omega) e⟩

end Sys2Proof.Machine
end

