-- ==== Sys2Proof/Laws/HostPort.lean ====
section
/-! SUPPORT. The laws of the host port and of the step: what each kind of input does, and what the block does while it is
idle or held in reset. -/

namespace Sys2Proof.Machine

/-- With no operation running the gap passes without effect (R343, R360). -/
theorem settle_idle {s : State} (h : s.running = false) : settle s = { s with gap := 0 } := by
  rw [settle, ctrlSteps_idle h]

/-- With no CTRL step owed nothing more happens. -/
theorem settle_zero {s : State} (h : s.gap = 0) : settle s = s := by
  rw [settle, h]
  show { s with gap := 0 } = s
  rw [← h]

theorem running_of_rstN {s : State} (h : s.rstN = false) : s.running = false := by simp [State.running, h]

theorem running_of_busy {s : State} (h : s.busy = false) : s.running = false := by simp [State.running, h]

theorem validAccess_word {op : HostOp} {off : BitVec 7} (h : off.toNat % 4 = 0) : validAccess ⟨op, 4, off⟩ = true := by
  simp [validAccess, h]

/-- A defined read (R81, R83). -/
theorem portStep_read {s : State} {off : BitVec 7} (h : off.toNat % 4 = 0) :
    portStep ⟨.read, 4, off⟩ s = .next (settle (s.respond (.data (readRegister s off)))) := by
  simp only [portStep, validAccess_word h, if_true]

/-- A defined write to CMD (R148). -/
theorem portStep_command {s : State} (v : Word) : portStep ⟨.write v, 4, 0⟩ s = commandWrite (v.setWidth 16) (s.respond .done) := by
  simp only [portStep, validAccess_word (show (0 : BitVec 7).toNat % 4 = 0 by decide), if_true]

/-- A defined write to another register (R84). -/
theorem portStep_write {s : State} {off : BitVec 7} (h : off.toNat % 4 = 0) (h0 : off ≠ 0) (v : Word) :
    portStep ⟨.write v, 4, off⟩ s = .next (settle ((hostWrite s off v).respond .done)) := by
  simp only [portStep, validAccess_word h, if_true, h0, if_false]

/-- An undefined access (R81, R325). -/
theorem portStep_fault {s : State} {a : HostAccess} (h : ¬(a.bytes = 4 ∧ a.offset.toNat % 4 = 0)) :
    portStep a s = .next (settle (s.respond .accessFault)) := by
  have : validAccess a = false := by simpa [validAccess] using h
  simp [portStep, this]

/-- A command offered to a block held in reset is ignored (R360). -/
theorem runCommand_in_reset {s : State} (h : s.rstN = false) (w : CmdWord) (ops : List Micro) :
    runCommand w ops s = .next { s with gap := 0 } := by
  rw [runCommand, offer_in_reset h, settle_idle (running_of_rstN h)]

/-- Every host command is one `runCommand` with some positions. -/
theorem exec_runCommand {i : Instr} (h : i.isHostCommand = true) (s : State) :
    ∃ w ops, exec i s = runCommand w ops s ∧ encode i = .cmd16 w := by
  cases i <;> first
    | exact ⟨_, _, rfl, rfl⟩
    | simp [Instr.isHostCommand, Instr.isWireCommand] at h

/-- A CMD write to a block held in reset is ignored (R360). -/
theorem commandWrite_in_reset {s : State} (h : s.rstN = false) (w : CmdWord) :
    commandWrite w s = .next { s with gap := 0 } := by
  rw [commandWrite]
  cases hd : decode w with
  | instr i =>
    obtain ⟨w', ops, he, -⟩ := exec_runCommand (isHostCommand_of_decode hd) s
    exact he.trans (runCommand_in_reset h w' ops)
  | illegal op => exact runCommand_in_reset h w _

end Sys2Proof.Machine
end

