-- ==== Sys2Proof/Laws/PerInstr.lean ====
section
/-! SUPPORT. The family TableRow, instruction by instruction: the word of an instruction lies in its row of the opcode map
(R133) or of the wire bytes (R137 to R143). -/

namespace Sys2Proof.Laws

/-- A host command's word names a row whose operation, with the word's ARG, is the instruction (R130, R133); a wire
command's byte and the command are a row of the wire bytes (30_encoding.md section 3). -/
def TableRow.Statement (i : Instr) : Prop :=
  match encode i with
  | .cmd16 w => i.isHostCommand = true ∧ ∃ r ∈ hostRows, r.op = opField w ∧ r.make (argField w) = i
  | .wire8 b => i.isWireCommand = true ∧ (b, i) ∈ wireRows

/-- The shared form of the 24 host commands. -/
theorem hostRow_statement {r : HostRow} (h : r ∈ hostRows) (arg : Byte) (he : encode (r.make arg) = .cmd16 (cmdWord r.op arg)) :
    TableRow.Statement (r.make arg) := by
  rw [TableRow.Statement, he]
  exact ⟨isHostCommand_of_row r h arg, r, h, (opField_cmdWord _ _).symm, by rw [argField_cmdWord]⟩

theorem TableRow.busReset (arg : Byte) : TableRow.Statement (.busReset arg) :=
  hostRow_statement (r := ⟨0x01, "BUS_RESET", .busReset⟩) (by simp [hostRows]) arg rfl

theorem TableRow.writeBit (arg : Byte) : TableRow.Statement (.writeBit arg) :=
  hostRow_statement (r := ⟨0x02, "WRITE_BIT", .writeBit⟩) (by simp [hostRows]) arg rfl

theorem TableRow.readBit (arg : Byte) : TableRow.Statement (.readBit arg) :=
  hostRow_statement (r := ⟨0x03, "READ_BIT", .readBit⟩) (by simp [hostRows]) arg rfl

theorem TableRow.writeByte (arg : Byte) : TableRow.Statement (.writeByte arg) :=
  hostRow_statement (r := ⟨0x04, "WRITE_BYTE", .writeByte⟩) (by simp [hostRows]) arg rfl

theorem TableRow.readByte (arg : Byte) : TableRow.Statement (.readByte arg) :=
  hostRow_statement (r := ⟨0x05, "READ_BYTE", .readByte⟩) (by simp [hostRows]) arg rfl

theorem TableRow.readPage (arg : Byte) : TableRow.Statement (.readPage arg) :=
  hostRow_statement (r := ⟨0x10, "READ_PAGE", .readPage⟩) (by simp [hostRows]) arg rfl

theorem TableRow.writePage (arg : Byte) : TableRow.Statement (.writePage arg) :=
  hostRow_statement (r := ⟨0x11, "WRITE_PAGE", .writePage⟩) (by simp [hostRows]) arg rfl

theorem TableRow.startVConv (arg : Byte) : TableRow.Statement (.startVConv arg) :=
  hostRow_statement (r := ⟨0x20, "START_VCONV", .startVConv⟩) (by simp [hostRows]) arg rfl

theorem TableRow.startTConv (arg : Byte) : TableRow.Statement (.startTConv arg) :=
  hostRow_statement (r := ⟨0x21, "START_TCONV", .startTConv⟩) (by simp [hostRows]) arg rfl

theorem TableRow.hasDataV (arg : Byte) : TableRow.Statement (.hasDataV arg) :=
  hostRow_statement (r := ⟨0x22, "HAS_DATA_V", .hasDataV⟩) (by simp [hostRows]) arg rfl

theorem TableRow.hasDataT (arg : Byte) : TableRow.Statement (.hasDataT arg) :=
  hostRow_statement (r := ⟨0x23, "HAS_DATA_T", .hasDataT⟩) (by simp [hostRows]) arg rfl

theorem TableRow.readVoltage (arg : Byte) : TableRow.Statement (.readVoltage arg) :=
  hostRow_statement (r := ⟨0x24, "READ_VOLTAGE", .readVoltage⟩) (by simp [hostRows]) arg rfl

theorem TableRow.readTemperature (arg : Byte) : TableRow.Statement (.readTemperature arg) :=
  hostRow_statement (r := ⟨0x25, "READ_TEMPERATURE", .readTemperature⟩) (by simp [hostRows]) arg rfl

theorem TableRow.getCurrent (arg : Byte) : TableRow.Statement (.getCurrent arg) :=
  hostRow_statement (r := ⟨0x26, "GET_CURRENT", .getCurrent⟩) (by simp [hostRows]) arg rfl

theorem TableRow.getCapacity (arg : Byte) : TableRow.Statement (.getCapacity arg) :=
  hostRow_statement (r := ⟨0x27, "GET_CAPACITY", .getCapacity⟩) (by simp [hostRows]) arg rfl

theorem TableRow.enableIAD (arg : Byte) : TableRow.Statement (.enableIAD arg) :=
  hostRow_statement (r := ⟨0x30, "ENABLE_IAD", .enableIAD⟩) (by simp [hostRows]) arg rfl

theorem TableRow.disableIAD (arg : Byte) : TableRow.Statement (.disableIAD arg) :=
  hostRow_statement (r := ⟨0x31, "DISABLE_IAD", .disableIAD⟩) (by simp [hostRows]) arg rfl

theorem TableRow.enableCA (arg : Byte) : TableRow.Statement (.enableCA arg) :=
  hostRow_statement (r := ⟨0x32, "ENABLE_CA", .enableCA⟩) (by simp [hostRows]) arg rfl

theorem TableRow.disableCA (arg : Byte) : TableRow.Statement (.disableCA arg) :=
  hostRow_statement (r := ⟨0x33, "DISABLE_CA", .disableCA⟩) (by simp [hostRows]) arg rfl

theorem TableRow.selectInput (arg : Byte) : TableRow.Statement (.selectInput arg) :=
  hostRow_statement (r := ⟨0x34, "SELECT_INPUT", .selectInput⟩) (by simp [hostRows]) arg rfl

theorem TableRow.decodeTemp (arg : Byte) : TableRow.Statement (.decodeTemp arg) :=
  hostRow_statement (r := ⟨0x40, "DECODE_TEMP", .decodeTemp⟩) (by simp [hostRows]) arg rfl

theorem TableRow.decodeVolt (arg : Byte) : TableRow.Statement (.decodeVolt arg) :=
  hostRow_statement (r := ⟨0x41, "DECODE_VOLT", .decodeVolt⟩) (by simp [hostRows]) arg rfl

theorem TableRow.decodeCurr (arg : Byte) : TableRow.Statement (.decodeCurr arg) :=
  hostRow_statement (r := ⟨0x42, "DECODE_CURR", .decodeCurr⟩) (by simp [hostRows]) arg rfl

theorem TableRow.decodeCap (arg : Byte) : TableRow.Statement (.decodeCap arg) :=
  hostRow_statement (r := ⟨0x43, "DECODE_CAP", .decodeCap⟩) (by simp [hostRows]) arg rfl

theorem TableRow.skipROM : TableRow.Statement .skipROM := ⟨rfl, by simp [wireRows]⟩

theorem TableRow.recallMemory : TableRow.Statement .recallMemory := ⟨rfl, by simp [wireRows]⟩

theorem TableRow.readScratchpad : TableRow.Statement .readScratchpad := ⟨rfl, by simp [wireRows]⟩

theorem TableRow.writeScratchpad : TableRow.Statement .writeScratchpad := ⟨rfl, by simp [wireRows]⟩

theorem TableRow.copyScratchpad : TableRow.Statement .copyScratchpad := ⟨rfl, by simp [wireRows]⟩

theorem TableRow.voltageConvert : TableRow.Statement .voltageConvert := ⟨rfl, by simp [wireRows]⟩

theorem TableRow.tempConvert : TableRow.Statement .tempConvert := ⟨rfl, by simp [wireRows]⟩

end Sys2Proof.Laws
end

