-- ==== Sys2Proof/Tests/Slice0.lean ====
section
/-! SUPPORT. The tests: ill-formed terms the checks refuse, words written out from the spec's encodings, small steps whose
results are the spec's vectors (95_test_vectors.md), and a witness for the hypotheses of each statement. -/

namespace Sys2Proof.Tests

open Sys2Proof.Machine

/-! Well-formedness. -/

/-- A wire byte is no host command (30_encoding.md section 3). -/
theorem test_wire_is_no_host_command :
    Instr.isHostCommand .skipROM = false ∧ Instr.isHostCommand (.readPage 7) = true := by decide

/-- A number above 255 does not assemble (R146). -/
theorem test_argument_range :
    AsmLine.argInRange ⟨"READ_PAGE", some 256⟩ = false ∧ assemble ⟨"READ_PAGE", some 256⟩ = none
      ∧ assemble ⟨"NO_SUCH", some 1⟩ = none ∧ assemble ⟨"READ_PAGE", some 7⟩ = some 0x1007 := by decide

/-- The default timing set is legal with a slack of 10, and each clause of R7 refuses a set. -/
theorem test_timing_legal : TimingSet.default.legal 10 = true := by decide

theorem test_timing_refused :
    TimingSet.legal { tRSTL := 479 } 0 = false ∧ TimingSet.legal { tMSP := 59 } 0 = false ∧ TimingSet.legal {} 11 = false
      ∧ TimingSet.legal { tRec := 11 } 0 = false ∧ TimingSet.legal { tW1L := 60, tW0L := 60, tW1R := 10 } 0 = false
      ∧ TimingSet.legal { tRL := 1, tRDV := 7 } 0 = false ∧ TimingSet.legal { tRL := 7 } 0 = false
      ∧ TimingSet.legal { tSlot := 71 } 0 = false := by decide

/-- A window that is not aligned, or a clock that does not run, is refused (92_eei_decisions.md). -/
theorem test_params_refused :
    (Params.legal ⟨0x40, 1, 0, 150, {}⟩ || Params.legal ⟨0x80, 0, 0, 150, {}⟩ || Params.legal ⟨0x80, 1, 0, 0, {}⟩
      || Params.legal ⟨0x80, 1, 0, 150, { tSlot := 71 }⟩) = false ∧ Params.legal ⟨0x80, 1, 10, 150, {}⟩ = true := by
  decide

/-! Decoding: OP in bits 15:8, ARG in bits 7:0 (R130, R133). -/

theorem test_decode_phy :
    decode 0b0000000101011010 = .instr (.busReset 0x5A) ∧ decode 0b0000001011111110 = .instr (.writeBit 0xFE)
      ∧ decode 0b0000001100000000 = .instr (.readBit 0) ∧ decode 0b0000010011001100 = .instr (.writeByte 0xCC)
      ∧ decode 0b0000010100000000 = .instr (.readByte 0) := by decide

theorem test_decode_pages :
    decode 0b0001000000000111 = .instr (.readPage 7) ∧ decode 0b0001000100001000 = .instr (.writePage 8) := by decide

theorem test_decode_conversions :
    decode 0b0010000000000000 = .instr (.startVConv 0) ∧ decode 0b0010000100000000 = .instr (.startTConv 0)
      ∧ decode 0b0010001000000000 = .instr (.hasDataV 0) ∧ decode 0b0010001100000000 = .instr (.hasDataT 0)
      ∧ decode 0b0010010000000000 = .instr (.readVoltage 0) ∧ decode 0b0010010100000000 = .instr (.readTemperature 0)
      ∧ decode 0b0010011000000000 = .instr (.getCurrent 0) ∧ decode 0b0010011100000000 = .instr (.getCapacity 0) := by
  decide

theorem test_decode_mutators :
    decode 0b0011000000000000 = .instr (.enableIAD 0) ∧ decode 0b0011000100000000 = .instr (.disableIAD 0)
      ∧ decode 0b0011001000000000 = .instr (.enableCA 0) ∧ decode 0b0011001100000000 = .instr (.disableCA 0)
      ∧ decode 0b0011010000000011 = .instr (.selectInput 3) := by decide

theorem test_decode_decoders :
    decode 0b0100000000000000 = .instr (.decodeTemp 0) ∧ decode 0b0100000100000000 = .instr (.decodeVolt 0)
      ∧ decode 0b0100001000000000 = .instr (.decodeCurr 0) ∧ decode 0b0100001100000000 = .instr (.decodeCap 0) := by
  decide

/-- The wire bytes, most significant bit first (R137 to R143). -/
theorem test_decode_wire :
    decodeWire 0b11001100 = some .skipROM ∧ decodeWire 0b10111000 = some .recallMemory
      ∧ decodeWire 0b10111110 = some .readScratchpad ∧ decodeWire 0b01001110 = some .writeScratchpad
      ∧ decodeWire 0b01001000 = some .copyScratchpad ∧ decodeWire 0b10110100 = some .voltageConvert
      ∧ decodeWire 0b01000100 = some .tempConvert ∧ decodeWire 0b01000101 = none := by decide

/-- The unassigned words of V1. -/
theorem test_decode_illegal :
    decode 0x0000 = .illegal 0x00 ∧ decode 0x0600 = .illegal 0x06 ∧ decode 0x0F00 = .illegal 0x0F
      ∧ decode 0x1200 = .illegal 0x12 ∧ decode 0x1F00 = .illegal 0x1F ∧ decode 0x2800 = .illegal 0x28
      ∧ decode 0x2F00 = .illegal 0x2F ∧ decode 0x3500 = .illegal 0x35 ∧ decode 0x3F00 = .illegal 0x3F
      ∧ decode 0x4400 = .illegal 0x44 ∧ decode 0xFFFF = .illegal 0xFF := by decide

/-- The host's reading of table rows. -/
theorem test_decode_table :
    decodeTableWord 16 0x1100 = some (.writePage 0) ∧ decodeTableWord 8 0x4E = some .writeScratchpad
      ∧ decodeTableWord 16 0x4E = none ∧ decodeTableWord 24 0x1100 = none := by decide

/-! Small steps. -/

/-- What a step leaves, where it answers a next state. -/
def after (o : Host.Outcome State Fault Refusal) : State :=
  match o with
  | .next t => t
  | .fault _ => State.reset
  | .refused _ => State.reset

/-- An idle block with PRESENT = 1, `n` CTRL steps to come and the given levels of the free LINE. -/
def idle (n : Nat) (levels : List Bool) : State := { State.reset with present := true, gap := n, samples := levels }

/-- The block with page bytes 1 to 6. -/
def withBytes (b1 b2 b3 b4 b5 b6 : Byte) (s : State) : State :=
  { s with data := #v[0, b1, b2, b3, b4, b5, b6, 0, 0] }

/-- A running operation at the positions `ops`. -/
def running (ops : List Micro) : State := { State.reset with busy := true, seq := ops }

/-- V2: BUS_RESET with a presence sample of 0. -/
theorem test_busReset :
    statusWord (after (exec (.busReset 0) (idle 8 [false]))) = 0x22
      ∧ (after (exec (.busReset 0) (idle 8 [false]))).history
        = [.low, .wait .tRSTL, .release, .wait .tMSP, .sample false, .wait .tRSTHRem] := by decide

/-- V2: BUS_STATE through a BUS_RESET, read after each of its CTRL steps: Reset from the first L to the R, Presence from
the R to the end, Idle at `Finish` (R38, R169). -/
theorem test_busReset_busState :
    (List.range 9).map (fun n => (after (exec (.busReset 0) (idle n [false]))).busState)
      = [.idle, .reset, .reset, .presence, .presence, .presence, .presence, .presence, .idle] := by decide

/-- V2: BUS_RESET with a presence sample of 1. -/
theorem test_busReset_none : statusWord (after (exec (.busReset 0) (idle 8 [true]))) = 0x02 := by decide

/-- V2: WRITE_BIT 1 is the short low pulse; ARG bit 0 alone is the bit (R174). -/
theorem test_writeBit : (after (exec (.writeBit 0x01) (idle 5 []))).history = [.low, .wait .tW1L, .release, .wait .tW1R] := by
  decide

theorem test_writeBit_even :
    (after (exec (.writeBit 0xFE) (idle 5 []))).history = [.low, .wait .tW0L, .release, .wait .tRec] := by decide

/-- V2: READ_BIT puts the sampled bit in RXDATA. -/
theorem test_readBit :
    (after (exec (.readBit 0) (idle 8 [true]))).rxdata = 0x01
      ∧ (after (exec (.readBit 0) (idle 8 [true]))).history
        = [.low, .wait .tRL, .release, .wait .tRDV, .sample true, .wait .tRRec] := by decide

/-- V2: WRITE_BYTE 0x80 sends seven zeros, then a one. -/
theorem test_writeByte :
    (after (exec (.writeByte 0x80) (idle 34 []))).history
      = (List.replicate 7 (frameWriteBit false)).flatten ++ frameWriteBit true := by decide +kernel

/-- V2: READ_BYTE assembles 1,0,1,0,0,1,0,1 as 0xA5. -/
theorem test_readByte :
    (after (exec (.readByte 0) (idle 59 [true, false, true, false, false, true, false, true]))).rxdata = 0xA5 := by
  decide +kernel

/-- V2: without PRESENT a raw operation has no trace. -/
theorem test_readByte_absent :
    statusWord (after (exec (.readByte 0) { State.reset with gap := 1 })) = 0x06
      ∧ (after (exec (.readByte 0) { State.reset with gap := 1 })).trace = [] := by decide

/-- V3: READ_PAGE 8 and WRITE_PAGE 8 are rejected without bus activity. -/
theorem test_page_range :
    statusWord (after (exec (.readPage 8) (idle 1 []))) = 0x2A ∧ (after (exec (.readPage 8) (idle 1 []))).trace = []
      ∧ statusWord (after (exec (.writePage 8) (idle 1 []))) = 0x2A := by decide

/-- E7: with no presence the bus-using operations end after one reset. -/
theorem test_no_presence :
    (after (exec (.readPage 0) (idle 8 [true]))).history = frameReset true
      ∧ statusWord (after (exec (.writePage 0) (idle 8 [true]))) = 0x06
      ∧ statusWord (after (exec (.startVConv 0) (idle 8 [true]))) = 0x06
      ∧ statusWord (after (exec (.startTConv 0) (idle 8 [true]))) = 0x06
      ∧ statusWord (after (exec (.enableIAD 0) (idle 8 [true]))) = 0x06 := by decide

/-- E3: the temperature counts 800 and -800; V4: a fraction is subtracted from a negative degree. -/
theorem test_decodeTemp :
    (after (exec (.decodeTemp 0) (withBytes 0x00 0x19 0 0 0 0 (idle 2 [])))).temp = 0x00000320
      ∧ (after (exec (.decodeTemp 0) (withBytes 0x00 0xE7 0 0 0 0 (idle 2 [])))).temp = 0xFFFFFCE0 := by decide

/-- E4: the voltage counts 100 and 1023. -/
theorem test_decodeVolt :
    (after (exec (.decodeVolt 0) (withBytes 0 0 0x64 0x00 0 0 (idle 2 [])))).volt = 100
      ∧ (after (exec (.decodeVolt 0) (withBytes 0 0 0xFF 0x03 0 0 (idle 2 [])))).volt = 1023 := by decide

/-- E5 and V4: the current counts 10, -10 by one sign bit, and -1023 for 0xFFFF. -/
theorem test_decodeCurr :
    (after (exec (.decodeCurr 0) (withBytes 0 0 0 0 0x0A 0x00 (idle 2 [])))).curr = 0x0000000A
      ∧ (after (exec (.decodeCurr 0) (withBytes 0 0 0 0 0x0A 0x04 (idle 2 [])))).curr = 0xFFFFFFF6
      ∧ (after (exec (.decodeCurr 0) (withBytes 0 0 0 0 0xFF 0xFF (idle 2 [])))).curr = 0xFFFFFC01 := by decide

/-- V4: the capacity is byte 4. -/
theorem test_decodeCap : (after (exec (.decodeCap 0) (withBytes 0 0 0 0x80 0 0 (idle 2 [])))).cap = 0x80 := by decide

/-- V5: the masks, at the mask position of a mutator. -/
theorem test_masks :
    maskByte .enableIAD 0xA6 = 0xA7 ∧ maskByte .disableIAD 0xA7 = 0xA6 ∧ maskByte .enableCA 0x00 = 0x02
      ∧ maskByte .disableCA 0xFF = 0xFD ∧ maskByte (.selectInput true) 0xA6 = 0xAE
      ∧ maskByte (.selectInput (argBit 0xFE)) 0xFF = 0xF7 := by decide

theorem test_mask_position :
    dataByte (after (step { running [.mask .enableIAD] with data := Vector.replicate 9 0xA6 })).data 0 = 0xA7
      ∧ dataByte (after (step { running [.mask .enableIAD] with data := Vector.replicate 9 0xA6 })).data 1 = 0xA6 := by
  decide

/-- V6: READY by the busy bits of byte 0. -/
theorem test_ready :
    readyOfByte .voltage 0x40 = false ∧ readyOfByte .temperature 0x40 = true ∧ readyOfByte .voltage 0x10 = true
      ∧ readyOfByte .temperature 0x10 = false ∧ readyOfByte .voltage 0xAF = true ∧ readyOfByte .temperature 0xAF = true := by
  decide

/-- V7: a STATUS write of 0x82 clears DONE and OVR; 0xFFFFFFFD keeps DONE. -/
theorem test_status_write :
    statusWord (acknowledge 0x82 { State.reset with done := true, ovr := true, present := true }) = 0x20
      ∧ statusWord (acknowledge 0xFFFFFFFD { State.reset with done := true, ovr := true }) = 0x02 := by decide

/-- V7: an unassigned OP. -/
theorem test_illegal : statusWord (after (commandWrite 0x7700 (idle 1 []))) = 0x32 := by decide

/-- V1: bits 31:16 of a CMD write are ignored, and CMD reads back the word. -/
theorem test_cmd_upper_bits :
    readRegister (after (step { State.reset with inputs := [(writeAccess 0 0xABCD1005, 0)] })) 0 = 0x1005 := by decide

/-- A wire command of a running operation puts its byte in the shift register and starts its first slot (R137). -/
theorem test_wire_command :
    (after (exec .skipROM (running []))).shift = 0xCC ∧ (after (exec .skipROM (running []))).seq = [.writeSlot] := by decide

/-- A word placed where `step` fetches is the one `step` runs, for both formats. -/
theorem test_fetch :
    (after (step (State.reset.withFetchWord 16 0x0201))).cmd = 0x0201
      ∧ (after (step (State.reset.withFetchWord 8 0x44))).shift = 0x44 := by decide

/-! Witnesses: for each statement with hypotheses, a state and operands that meet them all, clause by clause. -/

/-- A block with one pending input. -/
def withInput (i : Input) (n : Nat) (s : State) : State := { s with inputs := [(i, n)] }

theorem witness_AssemblerForms :
    (⟨0x43, "DECODE_CAP", .decodeCap⟩ : HostRow) ∈ hostRows ∧ 0 ≤ 255 ∧ 255 ≤ 255 ∧ 255 < 256 := by simp [hostRows]

theorem witness_StepRunsDecodedCommand :
    (withInput (writeAccess 0 0xABCD1005) 3 State.reset).inputs = (writeAccess 0 0xABCD1005, 3) :: []
      ∧ decode ((0xABCD1005 : Word).setWidth 16) = .instr (.readPage 5)
      ∧ decode ((0xFFFF : Word).setWidth 16) = .illegal 0xFF := by decide

theorem witness_StepRunsWireCommand :
    (running [.command 0xCC, .finish .ok]).inputs = [] ∧ (running [.command 0xCC, .finish .ok]).rstN = true
      ∧ (running [.command 0xCC, .finish .ok]).busy = true
      ∧ (running [.command 0xCC, .finish .ok]).seq = .command 0xCC :: [.finish .ok]
      ∧ decodeWire 0xCC = some .skipROM := by decide

/-- Each clause of LinePrimitives: a state at that position. -/
theorem witness_LinePrimitives :
    ∀ m ∈ [Micro.slotLow, .writeSlot, .readSlot, .resetLow, .release, .resetRelease, .releaseBit true, .wait .tRL,
      .waitPresence, .sampleBit, .samplePresence],
      (running [m, .finish .ok]).inputs = [] ∧ (running [m, .finish .ok]).rstN = true
        ∧ (running [m, .finish .ok]).busy = true ∧ (running [m, .finish .ok]).gap = 0
        ∧ (running [m, .finish .ok]).line = .free ∧ (running [m, .finish .ok]).seq = m :: [.finish .ok] := by decide

theorem witness_IdleBlockDoesNothing : (idle 5 []).inputs = [] ∧ (idle 5 []).busy = false := by decide

/-- Each writer of BUS_STATE, with a state at its position, and a position that writes none of RESULT, DONE, BUSY, PRESENT
and BUS_STATE; that position writes READY. -/
theorem witness_StatusFieldsHaveTheirWriters :
    (∀ m ∈ [Micro.resetLow, .resetRelease, .waitPresence, .slotLow, .writeSlot, .readSlot, .finish .ok, .testReady .voltage],
      (running [m]).rstN = true ∧ (running [m]).busy = true ∧ (running [m]).seq = m :: [])
    ∧ (Micro.resetRelease = .resetRelease ∨ Micro.resetRelease = .waitPresence)
    ∧ (Micro.readSlot = .slotLow ∨ Micro.readSlot = .writeSlot ∨ Micro.readSlot = .readSlot)
    ∧ (∃ c, Micro.finish .ok = .finish c)
    ∧ (Micro.testReady .voltage ≠ .resetLow ∧ Micro.testReady .voltage ≠ .resetRelease
      ∧ Micro.testReady .voltage ≠ .waitPresence
      ∧ Micro.testReady .voltage ≠ .slotLow ∧ Micro.testReady .voltage ≠ .writeSlot ∧ Micro.testReady .voltage ≠ .readSlot)
    ∧ (running [.testReady .voltage]).rstN = true ∧ (running [.testReady .voltage]).busy = true
      ∧ (running [.testReady .voltage]).seq = .testReady .voltage :: []
      ∧ (∀ c, Micro.testReady .voltage ≠ .finish c) ∧ (∀ c, Micro.testReady .voltage ≠ .latchPresence c)
      ∧ (ctrlStep (running [.testReady .voltage])).ready ≠ (running [.testReady .voltage]).ready := by
  refine ⟨by decide, by decide, by decide, ⟨_, rfl⟩, by decide, rfl, rfl, rfl, by simp, by simp, by decide⟩

/-- A sound state in the middle of an operation, which steps. -/
theorem witness_StepKeepsSound :
    Sound (running [.slotLow, .wait .tW0L, .release, .finish .ok])
      ∧ ∃ t, step (running [.slotLow, .wait .tW0L, .release, .finish .ok]) = .next t :=
  ⟨⟨by decide, by decide, by decide, by decide, by decide, by decide, by decide, by decide, by decide⟩, _, rfl⟩

theorem witness_BlockResetAbandonsOperation :
    (withInput (.resetPin false) 2 (running [.release, .finish .ok])).inputs = (.resetPin false, 2) :: [] := by decide

/-- The block held in reset, with each kind of input. -/
theorem witness_HeldInResetNothingMoves :
    ({ State.reset with rstN := false } : State).rstN = false ∧ atResetValues { State.reset with rstN := false } = true
      ∧ ({ State.reset with rstN := false } : State).inputs = []
      ∧ ∀ i ∈ [Input.port ⟨.read, 4, 0x7C⟩, .port ⟨.write 1, 4, 0⟩, .port ⟨.read, 1, 4⟩, .port ⟨.read, 4, 2⟩, .resetPin true],
        (withInput i 0 { State.reset with rstN := false }).inputs = (i, 0) :: []
          ∧ atResetValues (withInput i 0 { State.reset with rstN := false }) = true := by decide

/-- The first and the last register of the window, read last and read before a command; and a second read that two CTRL
steps follow. -/
theorem witness_ReadsHaveNoSideEffects :
    (∀ off ∈ [(0x00 : BitVec 7), 0x7C], ∀ n ∈ [0, 3], ∀ rest ∈ [[], [(writeAccess 0 0x0100, 8)]],
      off.toNat % 4 = 0
      ∧ ({ running [.slotLow] with inputs := (readAccess off, n) :: rest } : State).inputs = (readAccess off, n) :: rest)
    ∧ ({ running [.slotLow] with inputs := [(readAccess 0x04, 0), (readAccess 0x04, 2)] } : State).inputs
      = (readAccess 0x04, 0) :: (readAccess 0x04, 2) :: [] := by decide

/-- Every code of RESULT and of BUS_STATE is some state's, and bit 31 is a reserved one. -/
theorem witness_StatusReadsItsFields :
    (∀ r ∈ [ResultCode.ok, .deviceNotFound, .badParameter, .operationError, .illegalCommand],
      ({ State.reset with result := r } : State).result = r)
      ∧ (∀ b ∈ [BusState.idle, .reset, .presence, .bitSlot], ({ State.reset with busState := b } : State).busState = b)
      ∧ 11 ≤ 31 := by decide

theorem witness_IdleReadsTheRegisters : State.reset.busy = false ∧ 0 < 9 ∧ 8 < 9 := by decide

theorem witness_BusyReadsKeepReservedBitsZero : (running []).busy = true ∧ 0 < 9 ∧ 8 < 9 := by decide

/-- The reserved offsets at both ends of their ranges. -/
theorem witness_ReservedOffsetsAreInert :
    (∀ off ∈ [(0x34 : BitVec 7), 0x38, 0x3C, 0x50, 0x7C],
      off = 0x34 ∨ off = 0x38 ∨ off = 0x3C ∨ (0x50 ≤ off.toNat ∧ off.toNat % 4 = 0))
      ∧ (withInput (readAccess 0x50) 0 State.reset).inputs = (readAccess 0x50, 0) :: []
      ∧ (withInput (writeAccess 0x7C 5) 0 State.reset).inputs = (writeAccess 0x7C 5, 0) :: [] := by decide

theorem witness_ReadOnlyRegistersIgnoreWrites :
    (∀ off ∈ [(0x0C : BitVec 7), 0x40, 0x44, 0x48, 0x4C], off = 0x0C ∨ off = 0x40 ∨ off = 0x44 ∨ off = 0x48 ∨ off = 0x4C)
      ∧ (withInput (writeAccess 0x4C 5) 0 State.reset).inputs = (writeAccess 0x4C 5, 0) :: [] := by decide

/-- The two faults of V7: a narrow read, and a word write at a bad offset. -/
theorem witness_AccessFaultChangesNothing :
    ∀ a ∈ [(⟨.read, 1, 0x04⟩ : HostAccess), ⟨.write 7, 4, 0x02⟩],
      (withInput (.port a) 1 (running [.slotLow])).inputs = (.port a, 1) :: [] ∧ ¬(a.bytes = 4 ∧ a.offset.toNat % 4 = 0) := by
  decide

/-- The last byte of the window, and the first after it. -/
theorem witness_WindowLiesAtRegBase :
    (withInput (.bus (Config.params.regBase + 0x7F) 4 .read) 0 State.reset).inputs
        = (.bus (Config.params.regBase + 0x7F) 4 .read, 0) :: []
      ∧ Config.params.regBase + 0x7F = Config.params.regBase + (0x7F : BitVec 7).toNat
      ∧ Config.params.regBase + 0x80 ≤ Config.params.regBase + 0x80 :=
  ⟨rfl, rfl, Nat.le_refl _⟩

theorem witness_StatusWriteClearsByOnes :
    (withInput (writeAccess 0x04 0x82) 0 State.reset).rstN = true
      ∧ (withInput (writeAccess 0x04 0x82) 0 State.reset).inputs = (writeAccess 0x04 0x82, 0) :: [] := by decide

theorem witness_CtrlWriteSetsEnable :
    (withInput (writeAccess 0x08 1) 0 (running [.slotLow])).rstN = true
      ∧ (withInput (writeAccess 0x08 1) 0 (running [.slotLow])).inputs = (writeAccess 0x08 1, 0) :: [] := by decide

/-- The first and the last page byte, busy and idle. -/
theorem witness_DataWritesOnlyWhileIdle :
    ∀ k ∈ [0, 8], ∀ s ∈ [State.reset, running [.slotLow]],
      k < 9 ∧ (withInput (writeAccess (BitVec.ofNat 7 (0x10 + 4 * k)) 0x1FF) 0 s).rstN = true
        ∧ (withInput (writeAccess (BitVec.ofNat 7 (0x10 + 4 * k)) 0x1FF) 0 s).inputs
          = (writeAccess (BitVec.ofNat 7 (0x10 + 4 * k)) 0x1FF, 0) :: [] := by decide

theorem witness_AcceptanceLatchesCommand :
    (withInput (writeAccess 0 0x1007) 0 State.reset).rstN = true ∧ (withInput (writeAccess 0 0x1007) 0 State.reset).busy = false
      ∧ (withInput (writeAccess 0 0x1007) 0 State.reset).inputs = (writeAccess 0 0x1007, 0) :: [] := by decide

theorem witness_CommandWhileBusyIsDropped :
    (withInput (writeAccess 0 0x0100) 0 (running [.slotLow])).rstN = true
      ∧ (withInput (writeAccess 0 0x0100) 0 (running [.slotLow])).busy = true
      ∧ (withInput (writeAccess 0 0x0100) 0 (running [.slotLow])).inputs = (writeAccess 0 0x0100, 0) :: [] := by decide

/-- With no CTRL step to come, and with one. -/
theorem witness_IllegalCommandFinishesAtOnce :
    ∀ n ∈ [0, 1], (withInput (writeAccess 0 0x7700) n State.reset).rstN = true
      ∧ (withInput (writeAccess 0 0x7700) n State.reset).busy = false
      ∧ (withInput (writeAccess 0 0x7700) n State.reset).inputs = (writeAccess 0 0x7700, n) :: []
      ∧ decode ((0x7700 : Word).setWidth 16) = .illegal 0x77 := by decide

/-- An operation that lists no output, and one that lists every kind but the decoded registers. -/
theorem witness_FinishWritesItsFields :
    ({ State.reset with opl := 0x11 } : State).opl ∉ ([0x10, 0x22, 0x23, 0x24, 0x25, 0x26, 0x27, 0x30, 0x31, 0x32, 0x33, 0x34] :
      List Byte) ∧ ({ State.reset with opl := 0x11 } : State).opl ∉ ([0x03, 0x05, 0x40, 0x41, 0x42, 0x43] : List Byte)
      ∧ ResultCode.deviceNotFound ≠ .ok := by decide

theorem witness_BusResetCompletes : IdleFor 8 (idle 8 [true]) := ⟨rfl, rfl, by decide⟩

theorem witness_RawOperationsNeedPresence :
    (Instr.readByte 7, (0x05 : Byte), true) ∈ [(Instr.writeBit 7, (0x02 : Byte), false), (.readBit 7, 0x03, true),
      (.writeByte 7, 0x04, false), (.readByte 7, 0x05, true)]
      ∧ IdleFor 1 { State.reset with gap := 1 } ∧ ({ State.reset with gap := 1 } : State).present = false :=
  ⟨by decide, ⟨rfl, rfl, by decide⟩, rfl⟩

theorem witness_WriteBitCompletes : IdleFor 5 (idle 5 []) ∧ (idle 5 []).present = true := ⟨⟨rfl, rfl, by decide⟩, rfl⟩

theorem witness_ReadBitCompletes : IdleFor 8 (idle 8 []) ∧ (idle 8 []).present = true := ⟨⟨rfl, rfl, by decide⟩, rfl⟩

theorem witness_WriteByteCompletes : IdleFor 34 (idle 34 []) ∧ (idle 34 []).present = true := ⟨⟨rfl, rfl, by decide⟩, rfl⟩

theorem witness_ReadByteCompletes :
    IdleFor 59 (idle 59 []) ∧ (idle 59 []).present = true ∧ (idle 59 []).line = .free ∧ 0 < 8 ∧ 7 < 8 :=
  ⟨⟨rfl, rfl, by decide⟩, rfl, rfl, by decide, by decide⟩

theorem witness_WireCommandsSendTheirByte :
    (Instr.copyScratchpad, (0x48 : Byte)) ∈ [(Instr.skipROM, (0xCC : Byte)), (.recallMemory, 0xB8), (.readScratchpad, 0xBE),
      (.writeScratchpad, 0x4E), (.copyScratchpad, 0x48), (.voltageConvert, 0xB4), (.tempConvert, 0x44)]
      ∧ ({ running [.finish .ok] with gap := 32 } : State).rstN = true
      ∧ ({ running [.finish .ok] with gap := 32 } : State).busy = true
      ∧ 32 ≤ ({ running [.finish .ok] with gap := 32 } : State).gap := by decide

theorem witness_PageAboveSevenIsRejected : 7 < (8 : Byte).toNat ∧ 7 < (0xFF : Byte).toNat ∧ IdleFor 1 (idle 1 []) :=
  ⟨by decide, by decide, rfl, rfl, by decide⟩

/-- Two resets that find a device. -/
theorem witness_ReadPageCompletes :
    (7 : Byte).toNat ≤ 7 ∧ IdleFor 736 (idle 736 [false, false]) ∧ (idle 736 [false, false]).line = .free
      ∧ (idle 736 [false, false]).level 0 = false ∧ (idle 736 [false, false]).level 1 = false :=
  ⟨by decide, ⟨rfl, rfl, by decide⟩, rfl, rfl, rfl⟩

theorem witness_WritePageCompletes :
    (7 : Byte).toNat ≤ 7 ∧ IdleFor 520 (idle 520 [false, false]) ∧ (idle 520 [false, false]).line = .free
      ∧ (idle 520 [false, false]).level 0 = false ∧ (idle 520 [false, false]).level 1 = false :=
  ⟨by decide, ⟨rfl, rfl, by decide⟩, rfl, rfl, rfl⟩

theorem witness_FirstResetFailureEndsOperation :
    (Instr.writePage 7, (0x11 : Byte), ({} : Outputs)) ∈ [(Instr.readPage 7, (0x10 : Byte), ({ data := true } : Outputs)), (.writePage 7, 0x11, {}),
      (.startVConv 7, 0x20, {}), (.startTConv 7, 0x21, {}),
      (.hasDataV 7, 0x22, { data := true, ready := true }), (.hasDataT 7, 0x23, { data := true, ready := true }),
      (.readVoltage 7, 0x24, { data := true, volt := true, ready := true }),
      (.readTemperature 7, 0x25, { data := true, temp := true, ready := true }),
      (.getCurrent 7, 0x26, { data := true, curr := true }), (.getCapacity 7, 0x27, { data := true, cap := true }),
      (.enableIAD 7, 0x30, { data := true }), (.disableIAD 7, 0x31, { data := true }),
      (.enableCA 7, 0x32, { data := true }), (.disableCA 7, 0x33, { data := true }),
      (.selectInput 7, 0x34, { data := true })]
      ∧ ((0x11 : Byte) = 0x10 ∨ (0x11 : Byte) = 0x11 → (7 : Byte).toNat ≤ 7) ∧ IdleFor 8 (idle 8 [true])
      ∧ (idle 8 [true]).presenceLevel = true :=
  ⟨by decide, fun _ => by decide, ⟨rfl, rfl, by decide⟩, rfl⟩

/-- The clauses of one page: READ_PAGE 7, GET_CAPACITY and a mutator, and WRITE_PAGE 7. -/
theorem witness_SecondResetFailureAbortsPage :
    (∀ i ∈ [(Instr.readPage 7, (0x10 : Byte), (7 : Byte), ({ data := true } : Outputs)),
        (.getCapacity 7, 0x27, 1, { data := true, cap := true }), (.selectInput 7, 0x34, 0, { data := true })],
      i ∈ [(Instr.readPage 7, (0x10 : Byte), (7 : Byte), ({ data := true } : Outputs)),
        (.hasDataV 7, 0x22, 0, { data := true, ready := true }), (.hasDataT 7, 0x23, 0, { data := true, ready := true }),
        (.getCurrent 7, 0x26, 0, { data := true, curr := true }), (.getCapacity 7, 0x27, 1, { data := true, cap := true }),
        (.enableIAD 7, 0x30, 0, { data := true }), (.disableIAD 7, 0x31, 0, { data := true }),
        (.enableCA 7, 0x32, 0, { data := true }), (.disableCA 7, 0x33, 0, { data := true }),
        (.selectInput 7, 0x34, 0, { data := true })] ∧ i.2.2.1.toNat ≤ 7)
      ∧ IdleFor 114 (idle 114 [false, true]) ∧ IdleFor 421 (idle 421 [false, true]) ∧ (idle 421 [false, true]).line = .free
      ∧ (idle 421 [false, true]).level 0 = false ∧ (idle 421 [false, true]).level 1 = true :=
  ⟨by decide, ⟨rfl, rfl, by decide⟩, ⟨rfl, rfl, by decide⟩, rfl, rfl, rfl⟩

/-- The levels of a poll loop: one busy poll of the bit `bit`, then a reset that finds no device at the level `k`. -/
def abortedPoll (bit k : Nat) : List Bool := ((List.replicate 149 false).set (3 + bit) true).set k true

/-- The clauses of a blocking read: after no busy poll and after one, each reset of the next poll. -/
theorem witness_SecondResetFailureAbortsPage_poll :
    (∀ i ∈ [(Instr.readVoltage 7, (0x24 : Byte), (0xB4 : Byte), 6, ({ data := true, volt := true, ready := true } : Outputs)),
        (.readTemperature 7, 0x25, 0x44, 4, { data := true, temp := true, ready := true })],
      i ∈ [(Instr.readVoltage 7, (0x24 : Byte), (0xB4 : Byte), 6, ({ data := true, volt := true, ready := true } : Outputs)),
        (.readTemperature 7, 0x25, 0x44, 4, { data := true, temp := true, ready := true })])
      ∧ ∀ bit ∈ [6, 4], ∀ p ∈ [0, 1], ∀ r ∈ [1, 2],
        (idle 923 (abortedPoll bit (74 * p + r))).line = .free ∧ (idle 923 (abortedPoll bit (74 * p + r))).level 0 = false
        ∧ (∀ j, j < p → (idle 923 (abortedPoll bit (74 * p + r))).level (74 * j + 1) = false
          ∧ (idle 923 (abortedPoll bit (74 * p + r))).level (74 * j + 2) = false
          ∧ (idle 923 (abortedPoll bit (74 * p + r))).level (74 * j + 3 + bit) = true)
        ∧ (idle 923 (abortedPoll bit (74 * p + r))).rstN = true ∧ (idle 923 (abortedPoll bit (74 * p + r))).busy = false
        ∧ 187 + 736 * p ≤ (idle 923 (abortedPoll bit (74 * p + r))).gap
        ∧ (idle 923 (abortedPoll bit (74 * p + r))).level (74 * p + 1) = decide (r = 1)
        ∧ (r = 2 → (idle 923 (abortedPoll bit (74 * p + r))).level (74 * p + 2) = true) := by
  decide

theorem witness_StartConversionCompletes :
    (Instr.startTConv 7, (0x21 : Byte), (0x44 : Byte)) ∈ [(Instr.startVConv 7, (0x20 : Byte), (0xB4 : Byte)),
      (.startTConv 7, 0x21, 0x44)]
      ∧ IdleFor 74 (idle 74 [false]) ∧ (idle 74 [false]).line = .free ∧ (idle 74 [false]).level 0 = false :=
  ⟨by decide, ⟨rfl, rfl, by decide⟩, rfl, rfl⟩

theorem witness_HasDataCompletes :
    (Instr.hasDataT 7, (0x23 : Byte), 4) ∈ [(Instr.hasDataV 7, (0x22 : Byte), 6), (.hasDataT 7, 0x23, 4)]
      ∧ IdleFor 737 (idle 737 [false, false]) ∧ (idle 737 [false, false]).line = .free
      ∧ (idle 737 [false, false]).level 0 = false ∧ (idle 737 [false, false]).level 1 = false :=
  ⟨by decide, ⟨rfl, rfl, by decide⟩, rfl, rfl, rfl⟩

/-- The levels of a poll loop of two polls, the first of which reads busy at the level `k`. -/
def pollLevels (k : Nat) : List Bool := (List.replicate 149 false).set k true

theorem witness_ReadVoltageCompletes :
    IdleFor (811 + 736 * 1) (idle 1547 (pollLevels 9)) ∧ (idle 1547 (pollLevels 9)).line = .free
      ∧ (idle 1547 (pollLevels 9)).level 0 = false
      ∧ (∀ j, j ≤ 1 → (idle 1547 (pollLevels 9)).level (74 * j + 1) = false
        ∧ (idle 1547 (pollLevels 9)).level (74 * j + 2) = false)
      ∧ (∀ j, j < 1 → (idle 1547 (pollLevels 9)).level (74 * j + 3 + 6) = true)
      ∧ (idle 1547 (pollLevels 9)).level (74 * 1 + 3 + 6) = false :=
  ⟨⟨rfl, rfl, by decide⟩, rfl, rfl, by decide, by decide, rfl⟩

theorem witness_ReadTemperatureCompletes :
    IdleFor (811 + 736 * 1) (idle 1547 (pollLevels 7)) ∧ (idle 1547 (pollLevels 7)).line = .free
      ∧ (idle 1547 (pollLevels 7)).level 0 = false
      ∧ (∀ j, j ≤ 1 → (idle 1547 (pollLevels 7)).level (74 * j + 1) = false
        ∧ (idle 1547 (pollLevels 7)).level (74 * j + 2) = false)
      ∧ (∀ j, j < 1 → (idle 1547 (pollLevels 7)).level (74 * j + 3 + 4) = true)
      ∧ (idle 1547 (pollLevels 7)).level (74 * 1 + 3 + 4) = false :=
  ⟨⟨rfl, rfl, by decide⟩, rfl, rfl, by decide, by decide, rfl⟩

theorem witness_PollRunsOnWhileBusy :
    (Instr.readTemperature 7, 4) ∈ [(Instr.readVoltage 7, 6), (.readTemperature 7, 4)]
      ∧ (idle 809 (pollLevels 7)).rstN = true ∧ (idle 809 (pollLevels 7)).busy = false
      ∧ (idle 809 (pollLevels 7)).gap ≤ 73 + 736 * 1 ∧ (idle 809 (pollLevels 7)).line = .free
      ∧ (idle 809 (pollLevels 7)).level 0 = false
      ∧ ∀ j, j < 1 → (idle 809 (pollLevels 7)).level (74 * j + 1) = false
        ∧ (idle 809 (pollLevels 7)).level (74 * j + 2) = false ∧ (idle 809 (pollLevels 7)).level (74 * j + 3 + 4) = true := by
  decide

theorem witness_GetCurrentCompletes :
    IdleFor 737 (idle 737 [false, false]) ∧ (idle 737 [false, false]).line = .free
      ∧ (idle 737 [false, false]).level 0 = false ∧ (idle 737 [false, false]).level 1 = false :=
  ⟨⟨rfl, rfl, by decide⟩, rfl, rfl, rfl⟩

theorem witness_GetCapacityCompletes :
    IdleFor 737 (idle 738 [false, false]) ∧ (idle 738 [false, false]).line = .free
      ∧ (idle 738 [false, false]).level 0 = false ∧ (idle 738 [false, false]).level 1 = false :=
  ⟨⟨rfl, rfl, by decide⟩, rfl, rfl, rfl⟩

theorem witness_DecodeTempCompletes : IdleFor 2 (withBytes 0xF8 0xE7 0 0 0 0 (idle 2 [])) := ⟨rfl, rfl, by decide⟩

theorem witness_DecodeVoltCompletes : IdleFor 2 (withBytes 0 0 0xFF 0xFF 0 0 (idle 2 [])) := ⟨rfl, rfl, by decide⟩

theorem witness_DecodeCurrCompletes : IdleFor 2 (withBytes 0 0 0 0 0xFF 0x04 (idle 2 [])) := ⟨rfl, rfl, by decide⟩

theorem witness_DecodeCapCompletes : IdleFor 2 (withBytes 0 0 0 0xFF 0 0 (idle 2 [])) := ⟨rfl, rfl, by decide⟩

theorem witness_MutatorsComplete :
    (∃ f : Byte → Byte, (Instr.selectInput 0xFE, (0x34 : Byte), f) ∈ [(Instr.enableIAD 0xFE, (0x30 : Byte), fun x : Byte => x ||| 0x01), (.disableIAD 0xFE, 0x31, (· &&& 0xFE)),
      (.enableCA 0xFE, 0x32, (· ||| 0x02)), (.disableCA 0xFE, 0x33, (· &&& 0xFD)),
      (.selectInput 0xFE, 0x34, fun x => if (0xFE : Byte).getLsbD 0 then x ||| 0x08 else x &&& 0xF7)])
      ∧ IdleFor 1256 (idle 1256 (pollLevels 3)) ∧ (idle 1256 (pollLevels 3)).line = .free
      ∧ (idle 1256 (pollLevels 3)).level 0 = false ∧ (idle 1256 (pollLevels 3)).level 1 = false
      ∧ (idle 1256 (pollLevels 3)).level 74 = false ∧ (idle 1256 (pollLevels 3)).level 75 = false :=
  ⟨⟨_, .tail _ (.tail _ (.tail _ (.tail _ (.head _))))⟩, ⟨rfl, rfl, by decide⟩, rfl, rfl, rfl, rfl, rfl⟩

/-- Both clauses: the third reset fails, and the fourth. -/
theorem witness_MutatorWriteFailureIsOperationError :
    (∃ f : Byte → Byte, (Instr.enableIAD 7, (0x30 : Byte), f) ∈ [(Instr.enableIAD 7, (0x30 : Byte), fun x : Byte => x ||| 0x01), (.disableIAD 7, 0x31, (· &&& 0xFE)),
      (.enableCA 7, 0x32, (· ||| 0x02)), (.disableCA 7, 0x33, (· &&& 0xFD)),
      (.selectInput 7, 0x34, fun x => if (7 : Byte).getLsbD 0 then x ||| 0x08 else x &&& 0xF7)])
      ∧ (idle 744 (pollLevels 74)).line = .free ∧ (idle 744 (pollLevels 74)).level 0 = false
      ∧ (idle 744 (pollLevels 74)).level 1 = false ∧ IdleFor 744 (idle 744 (pollLevels 74))
      ∧ (idle 744 (pollLevels 74)).level 74 = true
      ∧ (idle 1157 (pollLevels 75)).line = .free ∧ (idle 1157 (pollLevels 75)).level 0 = false
      ∧ (idle 1157 (pollLevels 75)).level 1 = false ∧ IdleFor 1157 (idle 1157 (pollLevels 75))
      ∧ (idle 1157 (pollLevels 75)).level 74 = false ∧ (idle 1157 (pollLevels 75)).level 75 = true :=
  ⟨⟨_, .head _⟩, rfl, rfl, rfl, ⟨rfl, rfl, by decide⟩, rfl, rfl, rfl, rfl, ⟨rfl, rfl, by decide⟩, rfl, rfl⟩

theorem witness_MaskChangesOnlyItsBit :
    (Mutation.selectInput false, 3, false) ∈ [(Mutation.enableIAD, 0, true), (.disableIAD, 0, false), (.enableCA, 1, true),
      (.disableCA, 1, false), (.selectInput true, 3, true), (.selectInput false, 3, false)] ∧ 0 < 8 ∧ 7 < 8 := by decide

theorem witness_BoundedOperationsFinish :
    (Instr.disableCA 7).isHostCommand = true ∧ (∀ arg, Instr.disableCA 7 ≠ .readVoltage arg ∧ Instr.disableCA 7 ≠ .readTemperature arg)
      ∧ IdleFor 1256 (idle 1256 []) :=
  ⟨rfl, fun _ => ⟨by simp, by simp⟩, rfl, rfl, by decide⟩

/-- A legal set that is not the default, and the row of R382 with four resets. -/
theorem witness_NominalFrameTimes :
    TimingSet.legal { tRSTL := 500, tW1L := 1, tW1R := 69 } 10 = true
      ∧ (∃ d e, frameReadPage 0 (Vector.replicate 9 0xA5) ++ frameWritePage 0 (Vector.replicate 9 0x5A)
        = frameReadPage 0 d ++ frameWritePage 0 e) ∧ (4, 240, 20640) = (4, 240, 20640) :=
  ⟨by decide, ⟨_, _, rfl⟩, rfl⟩

/-- A device configuration (20_memory.md R122): present, the listed pages, K_V = 2, K_T infinite. -/
def deviceOf (pages : List (Nat × Page)) : DeviceConfig :=
  { present := true, mem := Memory.ofPages pages, kV := some 2, kT := none, vResult := (0x2B, 0x01), tResult := (0x20, 0x19) }

/-- R122: a start has sp = mem, mode Idle, nothing left to convert; an unlisted page reads 0x00 (95_test_vectors.md). -/
theorem test_deviceStart :
    (RefDevice.start (deviceOf [(3, Vector.replicate 9 0xA5)])).sp.pageByte 3 8 = 0xA5
      ∧ (RefDevice.start (deviceOf [(3, Vector.replicate 9 0xA5)])).mem.pageByte 2 8 = 0x00
      ∧ (RefDevice.start (deviceOf [])).mode = .idle ∧ (RefDevice.start (deviceOf [])).vleft = some 0
      ∧ (RefDevice.start (deviceOf [])).tleft = some 0 := by decide

/-- The reference device, present, and a page image without busy bits; page 0 and page 7. -/
def roundTrip (v w : Word) : State :=
  { State.reset.withDevice (deviceOf [(0, Vector.replicate 9 0x50)]) with
    data := Vector.replicate 9 0xAF
    inputs := [(writeAccess 0 v, 520), (writeAccess 0 w, 736)] }

/-- Page 0, whose old byte 0 has both busy bits set. -/
theorem witness_ReferenceDeviceRoundTrip :
    (0 : Byte).toNat ≤ 7 ∧ (roundTrip 0x1100 0x1000).rstN = true ∧ (roundTrip 0x1100 0x1000).busy = false
      ∧ (roundTrip 0x1100 0x1000).line = .reference ∧ (roundTrip 0x1100 0x1000).dev.present = true
      ∧ (roundTrip 0x1100 0x1000).dev.mem.wf = true ∧ (roundTrip 0x1100 0x1000).dev.sp.wf = true
      ∧ ((0 : Byte) = 0 → (dataByte (roundTrip 0x1100 0x1000).data 0).getLsbD 4 = false
        ∧ (dataByte (roundTrip 0x1100 0x1000).data 0).getLsbD 6 = false)
      ∧ (0x1100 : Word).setWidth 16 = 0x11#8 ++ (0 : Byte) ∧ (0x1000 : Word).setWidth 16 = 0x10#8 ++ (0 : Byte)
      ∧ 520 ≤ 520 ∧ 736 ≤ 736
      ∧ (roundTrip 0x1100 0x1000).inputs = (writeAccess 0 0x1100, 520) :: (writeAccess 0 0x1000, 736) :: [] :=
  ⟨by decide, rfl, rfl, rfl, rfl, by decide, by decide, fun _ => by decide, by decide, by decide, by decide, by decide, rfl⟩

/-- Page 7, the last. -/
theorem witness_ReferenceDeviceRoundTrip_last :
    (7 : Byte).toNat ≤ 7 ∧ (roundTrip 0x1107 0x1007).rstN = true ∧ (roundTrip 0x1107 0x1007).busy = false
      ∧ (roundTrip 0x1107 0x1007).line = .reference ∧ (roundTrip 0x1107 0x1007).dev.present = true
      ∧ (roundTrip 0x1107 0x1007).dev.mem.wf = true ∧ (roundTrip 0x1107 0x1007).dev.sp.wf = true
      ∧ ((7 : Byte) = 0 → (dataByte (roundTrip 0x1107 0x1007).data 0).getLsbD 4 = false
        ∧ (dataByte (roundTrip 0x1107 0x1007).data 0).getLsbD 6 = false)
      ∧ (0x1107 : Word).setWidth 16 = 0x11#8 ++ (7 : Byte) ∧ (0x1007 : Word).setWidth 16 = 0x10#8 ++ (7 : Byte)
      ∧ 520 ≤ 520 ∧ 736 ≤ 736
      ∧ (roundTrip 0x1107 0x1007).inputs = (writeAccess 0 0x1107, 520) :: (writeAccess 0 0x1007, 736) :: [] :=
  ⟨by decide, rfl, rfl, rfl, rfl, by decide, by decide, fun _ => by decide, by decide, by decide, by decide, by decide, rfl⟩

end Sys2Proof.Tests
end

section
/-! PROOFS. Completion (00_scope.md R9, 60_exceptions.md R329, R338): which operations list which output register, what
`Finish` writes for every code, and which outputs it keeps. -/

namespace Sys2Proof.Machine

/-! The operations that list each register as an output. -/

/-- The OPs that list an output register at all: the rows of `outputsOf` before its last. -/
def opsWithOutputs : List Byte :=
  [0x03, 0x05, 0x10, 0x22, 0x23, 0x24, 0x25, 0x26, 0x27, 0x30, 0x31, 0x32, 0x33, 0x34, 0x40, 0x41, 0x42, 0x43]

theorem outputsOf_of_notMem {op : Byte} (h : op ∉ opsWithOutputs) : outputsOf op = {} := by
  simp only [opsWithOutputs, List.mem_cons, List.not_mem_nil, or_false, not_or] at h
  simp only [outputsOf, h, or_self, if_false]

/-- Which operations list a register, `flag`, is decided on the rows that list any: every other OP lists none. -/
theorem outputsOf_flag_iff (flag : Outputs → Bool) {ops : List Byte} (hnone : flag {} = false) (hops : ops ⊆ opsWithOutputs)
    (hrows : ∀ op ∈ opsWithOutputs, flag (outputsOf op) = true ↔ op ∈ ops) (op : Byte) :
    flag (outputsOf op) = true ↔ op ∈ ops := by
  by_cases hop : op ∈ opsWithOutputs
  · exact hrows op hop
  · have hnot : op ∉ ops := fun h => hop (hops h)
    simp [outputsOf_of_notMem hop, hnone, hnot]

theorem outputsOf_data_iff (op : Byte) :
    (outputsOf op).data = true
      ↔ op ∈ [0x10, 0x22, 0x23, 0x24, 0x25, 0x26, 0x27, 0x30, 0x31, 0x32, 0x33, 0x34] :=
  outputsOf_flag_iff Outputs.data rfl (by decide) (by decide) op

theorem outputsOf_rxdata_iff (op : Byte) : (outputsOf op).rxdata = true ↔ op ∈ [0x03, 0x05] :=
  outputsOf_flag_iff Outputs.rxdata rfl (by decide) (by decide) op

theorem outputsOf_temp_iff (op : Byte) : (outputsOf op).temp = true ↔ op ∈ [0x25, 0x40] :=
  outputsOf_flag_iff Outputs.temp rfl (by decide) (by decide) op

theorem outputsOf_volt_iff (op : Byte) : (outputsOf op).volt = true ↔ op ∈ [0x24, 0x41] :=
  outputsOf_flag_iff Outputs.volt rfl (by decide) (by decide) op

theorem outputsOf_curr_iff (op : Byte) : (outputsOf op).curr = true ↔ op ∈ [0x26, 0x42] :=
  outputsOf_flag_iff Outputs.curr rfl (by decide) (by decide) op

theorem outputsOf_cap_iff (op : Byte) : (outputsOf op).cap = true ↔ op ∈ [0x27, 0x43] :=
  outputsOf_flag_iff Outputs.cap rfl (by decide) (by decide) op

theorem outputsOf_ready_iff (op : Byte) : (outputsOf op).ready = true ↔ op ∈ [0x22, 0x23, 0x24, 0x25] :=
  outputsOf_flag_iff Outputs.ready rfl (by decide) (by decide) op

/-! A register that the operation does not list keeps its value when the outputs become unspecified (R338). -/

section

variable {s : State}

theorem scrambleOutputs_data (h : ¬(outputsOf s.opl).data = true) : s.scrambleOutputs.data = s.data := if_neg h

theorem scrambleOutputs_rxdata (h : ¬(outputsOf s.opl).rxdata = true) : s.scrambleOutputs.rxdata = s.rxdata := if_neg h

theorem scrambleOutputs_temp (h : ¬(outputsOf s.opl).temp = true) : s.scrambleOutputs.temp = s.temp := if_neg h

theorem scrambleOutputs_volt (h : ¬(outputsOf s.opl).volt = true) : s.scrambleOutputs.volt = s.volt := if_neg h

theorem scrambleOutputs_curr (h : ¬(outputsOf s.opl).curr = true) : s.scrambleOutputs.curr = s.curr := if_neg h

theorem scrambleOutputs_cap (h : ¬(outputsOf s.opl).cap = true) : s.scrambleOutputs.cap = s.cap := if_neg h

theorem scrambleOutputs_ready (h : ¬(outputsOf s.opl).ready = true) : s.scrambleOutputs.ready = s.ready := if_neg h

end

/-- The fields `Finish(code)` writes whatever the code is (R9, R329), without the outputs. -/
def State.complete (c : ResultCode) (s : State) : State :=
  { s with result := c, busState := .idle, busy := false, done := true, seq := [], lineDrive := false }

theorem finish_ok (s : State) : finish .ok s = s.complete .ok := rfl

theorem finish_of_ne_ok {c : ResultCode} (h : c ≠ .ok) (s : State) : finish c s = s.scrambleOutputs.complete c := by
  simp only [finish, if_neg h, State.complete]

/-- Besides the outputs, `Finish` writes the fields of `State.complete` and no other (R9, R329, R338). -/
theorem finish_frame (c : ResultCode) (s : State) :
    finish c s = { s.complete c with
      data := (finish c s).data
      rxdata := (finish c s).rxdata
      temp := (finish c s).temp
      volt := (finish c s).volt
      curr := (finish c s).curr
      cap := (finish c s).cap
      ready := (finish c s).ready } := by
  by_cases h : c = .ok
  · subst h
    rw [finish_ok]
  · rw [finish_of_ne_ok h]
    rfl

/-- `Finish` keeps a register that completion does not write, `reg`, when the code is OK or the operation does not list it
among its outputs (R338). -/
theorem finish_keeps {α : Type} {c : ResultCode} {s : State} {listed : Prop} (reg : State → α)
    (hreg : ∀ t, reg (State.complete c t) = reg t) (hs : ¬listed → reg s.scrambleOutputs = reg s) (h : c = .ok ∨ ¬listed) :
    reg (finish c s) = reg s := by
  by_cases hc : c = .ok
  · subst hc
    rw [finish_ok]
    exact hreg s
  · calc reg (finish c s) = reg (s.scrambleOutputs.complete c) := by rw [finish_of_ne_ok hc]
      _ = reg s.scrambleOutputs := hreg _
      _ = reg s := hs (h.resolve_left hc)

/-- Settles O30: the frame of `Finish`, and for each output register that it is kept unless the code is an error and the
operation lists it. -/
theorem finishWritesItsFields : Obligations.FinishWritesItsFields := by
  intro c s
  exact ⟨finish_frame c s,
    fun h => finish_keeps State.data (fun _ => rfl) scrambleOutputs_data (h.imp_right (mt (outputsOf_data_iff _).1)),
    fun h => finish_keeps State.rxdata (fun _ => rfl) scrambleOutputs_rxdata (h.imp_right (mt (outputsOf_rxdata_iff _).1)),
    fun h => finish_keeps State.temp (fun _ => rfl) scrambleOutputs_temp (h.imp_right (mt (outputsOf_temp_iff _).1)),
    fun h => finish_keeps State.volt (fun _ => rfl) scrambleOutputs_volt (h.imp_right (mt (outputsOf_volt_iff _).1)),
    fun h => finish_keeps State.curr (fun _ => rfl) scrambleOutputs_curr (h.imp_right (mt (outputsOf_curr_iff _).1)),
    fun h => finish_keeps State.cap (fun _ => rfl) scrambleOutputs_cap (h.imp_right (mt (outputsOf_cap_iff _).1)),
    fun h => finish_keeps State.ready (fun _ => rfl) scrambleOutputs_ready (h.imp_right (mt (outputsOf_ready_iff _).1))⟩

end Sys2Proof.Machine
end

section
/-! PROOFS. The status fields (10_state.md R32 to R38) and the invariant of the machine (`Sound`): what each position
writes, said once, that the state after reset is sound, and that every step keeps soundness. -/

namespace Sys2Proof.Machine

/-! The positions that end or repeat a loop, each as one update. -/

theorem nextData_eq (s : State) :
    nextData s = { s with
      byteCnt := if s.byteCnt.toNat < 8 then s.byteCnt + 1 else s.byteCnt
      seq := if s.byteCnt.toNat < 8 then .loadData :: .writeSlot :: .nextData :: s.seq else s.seq } := by
  by_cases h : s.byteCnt.toNat < 8 <;> simp [nextData, h]

theorem storeData_eq (s : State) :
    storeData s = { s with
      data := setDataByte s.data s.byteCnt.toNat s.shift
      byteCnt := if s.byteCnt.toNat < 8 then s.byteCnt + 1 else s.byteCnt
      seq := if s.byteCnt.toNat < 8 then .clearByte :: .readSlot :: .storeData :: s.seq else s.seq } := by
  by_cases h : s.byteCnt.toNat < 8 <;> simp [storeData, h]

theorem pollReady_eq (k : BusyBit) (s : State) :
    pollReady k s = { s with
      ready := if readyOfByte k (dataByte s.data 0) then true else s.ready
      seq := if readyOfByte k (dataByte s.data 0) then s.seq
        else readPageOps .deviceNotFound 0 ++ .pollReady k :: s.seq } := by
  by_cases h : readyOfByte k (dataByte s.data 0) <;> simp [pollReady, h]

/-! Which positions write which status field. -/

/-- BUS_STATE after the position `m` (R38, R164 to R166, R169, R329). -/
def busStateAfter (m : Micro) (b : BusState) : BusState :=
  match m with
  | .resetLow => .reset
  | .resetRelease | .waitPresence => .presence
  | .slotLow | .writeSlot | .readSlot => .bitSlot
  | .finish _ => .idle
  | _ => b

theorem micro_busState (m : Micro) (s : State) : (micro m s).busState = busStateAfter m s.busState := by
  cases m
  case nextData => rw [micro, nextData_eq]; rfl
  case storeData => rw [micro, storeData_eq]; rfl
  case pollReady k => rw [micro, pollReady_eq]; rfl
  all_goals rfl

/-- Only `Finish` completes an operation (R9, R329). -/
theorem micro_running {m : Micro} (hm : ∀ c, m ≠ .finish c) (s : State) :
    (micro m s).result = s.result ∧ (micro m s).done = s.done ∧ (micro m s).busy = s.busy := by
  cases m
  case nextData => rw [micro, nextData_eq]; exact ⟨rfl, rfl, rfl⟩
  case storeData => rw [micro, storeData_eq]; exact ⟨rfl, rfl, rfl⟩
  case pollReady k => rw [micro, pollReady_eq]; exact ⟨rfl, rfl, rfl⟩
  case finish c => exact absurd rfl (hm c)
  all_goals exact ⟨rfl, rfl, rfl⟩

theorem finish_present (c : ResultCode) (s : State) : (finish c s).present = s.present := by
  rw [finish_frame]; rfl

/-- Only the end of a bus reset writes PRESENT (R35, R164). -/
theorem micro_present {m : Micro} (hm : ∀ c, m ≠ .latchPresence c) (s : State) : (micro m s).present = s.present := by
  cases m
  case latchPresence c => exact absurd rfl (hm c)
  case nextData => rw [micro, nextData_eq]
  case storeData => rw [micro, storeData_eq]
  case pollReady k => rw [micro, pollReady_eq]
  case finish c => exact finish_present c s
  all_goals rfl

/-- Only a test of a busy bit (R295, R298) and a `Finish` with a failure code (R338) write READY. -/
theorem micro_ready {m : Micro} {s : State} (h : (micro m s).ready ≠ s.ready) :
    (∃ k, m = .testReady k ∨ m = .pollReady k) ∨ ∃ c, c ≠ .ok ∧ m = .finish c := by
  cases m
  case testReady k => exact .inl ⟨k, .inl rfl⟩
  case pollReady k => exact .inl ⟨k, .inr rfl⟩
  case nextData => exact absurd (by rw [micro, nextData_eq]) h
  case storeData => exact absurd (by rw [micro, storeData_eq]) h
  case finish c => exact .inr ⟨c, fun hc => h (by subst hc; rfl), rfl⟩
  all_goals exact absurd rfl h

/-- Settles O10: the CTRL step is the work of the position at the head of SEQ, and the lemmas above say which status
fields that work writes. -/
theorem statusFieldsHaveTheirWriters : Obligations.StatusFieldsHaveTheirWriters := by
  intro s m rest hr hb hs
  obtain ⟨-, hcmd, hovr, hie, -⟩ := ctrlStep_frame s
  rw [ctrlStep_cons ((running_iff s).2 ⟨hr, hb⟩) hs] at hcmd hovr hie ⊢
  have hbus := micro_busState m (s.pop rest)
  refine ⟨fun hm => micro_running hm _, fun hm => micro_present hm _, fun h => micro_ready h, ?_, ?_, ?_, ?_, ?_,
    hovr, hie, hcmd⟩
  · rintro rfl
    exact hbus
  · rintro (rfl | rfl) <;> exact hbus
  · rintro (rfl | rfl | rfl) <;> exact hbus
  · rintro ⟨c, rfl⟩
    exact hbus
  · intro h1 h2 h3 h4 h5 h6 hf
    rw [hbus, State.pop_busState, busStateAfter] <;> assumption

/-! The line discipline of the procedures: each starts and ends with the line released, so what follows it decides. -/

section

variable (rest : List Micro)

@[simp] theorem disciplined_finish (c : ResultCode) : seqDisciplined false [.finish c] = true := rfl

@[simp] theorem disciplined_writeBitTail (b : Bool) :
    seqDisciplined true (writeBitTail b ++ rest) = seqDisciplined false rest := by
  cases b <;> rfl

@[simp] theorem disciplined_readBitTail : seqDisciplined true (readBitTail ++ rest) = seqDisciplined false rest := rfl

@[simp] theorem disciplined_resetOps (c : Option ResultCode) :
    seqDisciplined false (resetOps c ++ rest) = seqDisciplined false rest := rfl

@[simp] theorem disciplined_writeBitOps (b : Bool) :
    seqDisciplined false (writeBitOps b ++ rest) = seqDisciplined false rest :=
  disciplined_writeBitTail rest b

@[simp] theorem disciplined_readBitOps : seqDisciplined false (readBitOps ++ rest) = seqDisciplined false rest := rfl

@[simp] theorem disciplined_handshakeOps (c : ResultCode) (x n : Byte) :
    seqDisciplined false (handshakeOps c x n ++ rest) = seqDisciplined false rest := by
  simp [handshakeOps, writeByteOps, seqDisciplined]

@[simp] theorem disciplined_readPageOps (c : ResultCode) (n : Byte) :
    seqDisciplined false (readPageOps c n ++ rest) = seqDisciplined false rest := by
  simp [readPageOps, readByteOps, seqDisciplined]

@[simp] theorem disciplined_writePageOps (c : ResultCode) (n : Byte) :
    seqDisciplined false (writePageOps c n ++ rest) = seqDisciplined false rest := by
  simp [writePageOps, seqDisciplined]

@[simp] theorem disciplined_startConversionOps (x : Byte) :
    seqDisciplined false (startConversionOps x ++ rest) = seqDisciplined false rest := by
  simp [startConversionOps, seqDisciplined]

@[simp] theorem disciplined_convertAndPollOps (x : Byte) (k : BusyBit) :
    seqDisciplined false (convertAndPollOps x k ++ rest) = seqDisciplined false rest := by
  simp [convertAndPollOps, seqDisciplined]

@[simp] theorem disciplined_configOps (f : Mutation) :
    seqDisciplined false (configOps f ++ rest) = seqDisciplined false rest := by
  simp [configOps, seqDisciplined]

end

theorem disciplined_gated (s : State) {ops : List Micro} (h : seqDisciplined false ops = true) :
    seqDisciplined false (gated s ops) = true := by
  unfold gated
  split
  · exact h
  · rfl

theorem disciplined_checkedPage (n : Byte) {ops : List Micro} (h : seqDisciplined false ops = true) :
    seqDisciplined false (checkedPage n ops) = true := by
  unfold checkedPage
  split
  · exact h
  · rfl

/-- Every host command is one `runCommand` whose positions keep the line discipline from a released line. -/
theorem exec_disciplined {i : Instr} (hi : i.isHostCommand = true) (s : State) :
    ∃ w ops, exec i s = runCommand w ops s ∧ seqDisciplined false ops = true := by
  cases i
  case writeBit arg => exact ⟨_, _, rfl, disciplined_gated s (by simp)⟩
  case readBit arg => exact ⟨_, _, rfl, disciplined_gated s (by simp [seqDisciplined])⟩
  case writeByte arg => exact ⟨_, _, rfl, disciplined_gated s rfl⟩
  case readByte arg => exact ⟨_, _, rfl, disciplined_gated s rfl⟩
  case readPage arg => exact ⟨_, _, rfl, disciplined_checkedPage arg (by simp)⟩
  case writePage arg => exact ⟨_, _, rfl, disciplined_checkedPage arg (by simp)⟩
  case skipROM | recallMemory | readScratchpad | writeScratchpad | copyScratchpad | voltageConvert | tempConvert =>
    cases hi
  all_goals exact ⟨_, _, rfl, by simp [seqDisciplined]⟩

/-- Every wire command sends one byte (R137 to R143). -/
theorem exec_sendWireCommand {i : Instr} (hi : i.isWireCommand = true) (s : State) :
    ∃ x, exec i s = sendWireCommand x s := by
  cases i
  case skipROM | recallMemory | readScratchpad | writeScratchpad | copyScratchpad | voltageConvert | tempConvert =>
    exact ⟨_, rfl⟩
  all_goals cases hi

/-! What a position leaves: the rest of SEQ disciplined, and the device's memories canonical. -/

/-- A position that is not `Finish` leaves a disciplined rest (R163). -/
theorem micro_disciplined {m : Micro} {s : State} (hm : ∀ c, m ≠ .finish c)
    (h : seqDisciplined s.lineDrive (m :: s.seq) = true) :
    seqDisciplined (micro m s).lineDrive (micro m s).seq = true := by
  cases m
  case finish c => exact absurd rfl (hm c)
  case wait t => exact h
  all_goals simp only [seqDisciplined, Bool.and_eq_true, Bool.not_eq_true'] at h
  all_goals obtain ⟨hdrive, hrest⟩ := h
  case latchPresence c =>
    simp only [micro, latchPresence, hdrive]
    split
    · exact hrest
    · split
      · exact hrest
      · rfl
  case writeSlot =>
    simp only [micro, writeSlot, State.lineLow_lineDrive, disciplined_writeBitTail]
    split <;> exact hrest
  case readSlot =>
    simp only [micro, readSlot, State.lineLow_lineDrive, disciplined_readBitTail]
    split <;> exact hrest
  case nextData =>
    rw [micro, nextData_eq, hdrive]
    dsimp only
    split <;> exact hrest
  case storeData =>
    rw [micro, storeData_eq, hdrive]
    dsimp only
    split <;> exact hrest
  case pollReady k =>
    rw [micro, pollReady_eq, hdrive]
    dsimp only
    split
    · exact hrest
    · rw [disciplined_readPageOps]
      exact hrest
  case command x => simp only [micro, startCommand, loadByte, seqDisciplined, hdrive, hrest, Bool.not_false, Bool.and_true]
  case resetLow | slotLow | release | resetRelease | releaseBit b => exact hrest
  all_goals
    rw [← hdrive] at hrest
    exact hrest

theorem finish_dev (c : ResultCode) (s : State) : (finish c s).dev = s.dev := by
  rw [finish_frame]; rfl

theorem micro_dev_wf (m : Micro) {s : State} (h : s.dev.Wf) : (micro m s).dev.Wf := by
  obtain ⟨hreset, hread, hwrite⟩ := devAfter_wf s.line h
  cases m
  case samplePresence => exact hreset
  case sampleBit => exact hread
  case releaseBit b => exact hwrite b
  case nextData => rw [micro, nextData_eq]; exact h
  case storeData => rw [micro, storeData_eq]; exact h
  case pollReady k => rw [micro, pollReady_eq]; exact h
  case finish c => rw [micro, finish_dev]; exact h
  all_goals exact h

/-! Soundness in the two modes of a block out of reset. -/

theorem sound_of_busy {s : State} (hr : s.rstN = true) (hb : s.busy = true) (hd : s.done = false)
    (hseq : seqDisciplined s.lineDrive s.seq = true) (hcmd : s.cmd = s.opl ++ s.argl) (hdev : s.dev.Wf) : Sound s where
  reset_holds h := by simp [hr] at h
  idle_seq h := by simp [hb] at h
  idle_line h := by simp [hb] at h
  idle_busState h := by simp [hb] at h
  busy_seq _ := hseq
  busy_done _ := hd
  cmd_latched := hcmd
  mem_wf := hdev.1
  sp_wf := hdev.2

theorem sound_of_idle {s : State} (hr : s.rstN = true) (hb : s.busy = false) (hseq : s.seq = [])
    (hline : s.lineDrive = false) (hbus : s.busState = .idle) (hcmd : s.cmd = s.opl ++ s.argl) (hdev : s.dev.Wf) :
    Sound s where
  reset_holds h := by simp [hr] at h
  idle_seq _ := hseq
  idle_line _ := hline
  idle_busState _ := hbus
  busy_seq h := by simp [hb] at h
  busy_done h := by simp [hb] at h
  cmd_latched := hcmd
  mem_wf := hdev.1
  sp_wf := hdev.2

theorem Sound.dev_wf {s : State} (h : Sound s) : s.dev.Wf := ⟨h.mem_wf, h.sp_wf⟩

/-- Settles O12: the block is idle and every other relation holds of the reset values. -/
theorem resetIsSound : Obligations.ResetIsSound :=
  sound_of_idle rfl rfl rfl rfl rfl rfl reset_memory_wf

/-! The CTRL steps. -/

/-- The work of a position that may stand at the head of SEQ keeps soundness: `Finish` leaves an idle block, and every
other position leaves the operation running with a disciplined rest. -/
theorem sound_micro {s : State} {m : Micro} {rest : List Micro} (h : Sound s) (hr : s.running = true)
    (hseq : seqDisciplined s.lineDrive (m :: rest) = true) : Sound (micro m (s.pop rest)) := by
  obtain ⟨hrst, hb⟩ := (running_iff s).1 hr
  obtain ⟨frst, fcmd, -, -, fopl, fargl, -⟩ := micro_frame m (s.pop rest)
  have hcmd : (micro m (s.pop rest)).cmd = (micro m (s.pop rest)).opl ++ (micro m (s.pop rest)).argl := by
    rw [fcmd, fopl, fargl]
    exact h.cmd_latched
  have hdev : (micro m (s.pop rest)).dev.Wf := micro_dev_wf m h.dev_wf
  by_cases hm : ∃ c, m = .finish c
  · obtain ⟨c, rfl⟩ := hm
    exact sound_of_idle (frst.trans hrst) rfl rfl rfl rfl hcmd hdev
  · have hm' : ∀ c, m ≠ .finish c := fun c hc => hm ⟨c, hc⟩
    obtain ⟨-, fdone, fbusy⟩ := micro_running hm' (s.pop rest)
    exact sound_of_busy (frst.trans hrst) (fbusy.trans hb) (fdone.trans (h.busy_done hb))
      (micro_disciplined hm' hseq) hcmd hdev

theorem sound_ctrlStep {s : State} (h : Sound s) : Sound (ctrlStep s) := by
  unfold ctrlStep
  split
  next hr =>
    split
    next => exact h
    next m rest hs =>
      have hseq := h.busy_seq ((running_iff s).1 hr).2
      exact sound_micro h hr (hs ▸ hseq)
  next => exact h

theorem sound_ctrlSteps (n : Nat) {s : State} (h : Sound s) : Sound (ctrlSteps n s) := by
  induction n generalizing s with
  | zero => exact h
  | succ n ih => exact ih (sound_ctrlStep h)

/-- The port and the model's own schedule are no part of the invariant. -/
theorem Sound.withPort {s : State} (h : Sound s) (r : HostResponse) (l : List (Input × Nat)) (n e : Nat) :
    Sound { s with resp := r, inputs := l, gap := n, epoch := e } := { h with }

theorem sound_settle {s : State} (h : Sound s) : Sound (settle s) :=
  (sound_ctrlSteps s.gap h).withPort _ _ 0 _

theorem Sound.respond {s : State} (h : Sound s) (r : HostResponse) : Sound (s.respond r) := h.withPort r _ _ _

theorem Sound.takeInput {s : State} (h : Sound s) (l : List (Input × Nat)) (n : Nat) : Sound (s.takeInput l n) :=
  h.withPort _ l n _

/-! Commands. -/

theorem latched_fields (w : CmdWord) : w = w.extractLsb' 8 8 ++ w.extractLsb' 0 8 := (cmdWord_fields w).symm

theorem sound_offer {s : State} (h : Sound s) (w : CmdWord) {ops : List Micro}
    (hops : seqDisciplined false ops = true) : Sound (offer w ops s) := by
  cases hr : s.rstN with
  | false =>
    rw [offer_in_reset hr]
    exact h
  | true =>
    cases hb : s.busy with
    | true =>
      rw [offer_drops hr hb]
      exact { h with reset_holds := fun hr' => absurd (hr.symm.trans hr') (by decide) }
    | false =>
      rw [offer_accepts hr hb]
      refine sound_of_busy hr rfl rfl ?_ (latched_fields w) h.dev_wf
      rw [accepted_lineDrive, accepted_seq, h.idle_line hb]
      exact hops

/-- The step that answers `o`, if it answers a next state, answers a sound one. -/
def SoundOutcome (o : Host.Outcome State Fault Refusal) : Prop := ∀ t, o = .next t → Sound t

theorem soundOutcome_next {s : State} (h : Sound s) : SoundOutcome (.next s) := by
  rintro t ⟨⟩
  exact h

theorem soundOutcome_settle {s : State} (h : Sound s) : SoundOutcome (.next (settle s)) :=
  soundOutcome_next (sound_settle h)

theorem sound_commandWrite {s : State} (h : Sound s) (w : CmdWord) : SoundOutcome (commandWrite w s) := by
  rw [commandWrite]
  cases hd : decode w with
  | instr i =>
    obtain ⟨w', ops, he, hops⟩ := exec_disciplined (isHostCommand_of_decode hd) s
    dsimp only
    rw [he]
    exact soundOutcome_settle (sound_offer h w' hops)
  | illegal op => exact soundOutcome_settle (sound_offer h w rfl)

/-! The host port and the reset pin. -/

/-- What a write to a register other than CMD can do (R84, R85): acknowledge, set IE, store a page byte, or nothing. -/
theorem writeRegister_cases (s : State) (off : BitVec 7) (v : Word) :
    writeRegister s off v = acknowledge v s ∨ writeRegister s off v = { s with ie := v.getLsbD 0 }
      ∨ (∃ p, writeRegister s off v = { s with data := p }) ∨ writeRegister s off v = s := by
  unfold writeRegister
  dsimp only
  split
  · exact .inl rfl
  · split
    · exact .inr (.inl rfl)
    · split
      · split
        · exact .inr (.inr (.inr rfl))
        · exact .inr (.inr (.inl ⟨_, rfl⟩))
      · exact .inr (.inr (.inr rfl))

/-- A write to STATUS never sets DONE (R33). -/
theorem acknowledge_done {s : State} (h : s.done = false) (v : Word) : (acknowledge v s).done = false := by
  simp [acknowledge, doneAfterWrite, h]

theorem sound_hostWrite {s : State} (h : Sound s) (off : BitVec 7) (v : Word) : Sound (hostWrite s off v) := by
  unfold hostWrite
  split
  next hr =>
    have hreset : ¬s.rstN = false := by simp [hr]
    obtain he | he | ⟨p, he⟩ | he := writeRegister_cases s off v
    · rw [he]
      exact { h with
        reset_holds := fun hr' => absurd hr' hreset
        busy_done := fun hb => acknowledge_done (h.busy_done hb) v }
    · rw [he]
      exact { h with reset_holds := fun hr' => absurd hr' hreset }
    · rw [he]
      exact { h with reset_holds := fun hr' => absurd hr' hreset }
    · rw [he]
      exact h.withPort _ _ _ _
  next => exact h

theorem sound_portStep {s : State} (h : Sound s) (a : HostAccess) : SoundOutcome (portStep a s) := by
  unfold portStep
  split
  · split
    · exact soundOutcome_settle (h.respond _)
    next v _ =>
      split
      · exact sound_commandWrite (h.respond _) _
      · exact soundOutcome_settle ((sound_hostWrite h _ v).respond _)
  · exact soundOutcome_settle (h.respond _)

theorem atResetValues_blockReset (s : State) : atResetValues (blockReset s) = true := by
  simp [atResetValues, blockReset, State.reset]

theorem sound_blockReset {s : State} (h : s.dev.Wf) : Sound (blockReset s) where
  reset_holds _ := atResetValues_blockReset s
  idle_seq _ := rfl
  idle_line _ := rfl
  idle_busState _ := rfl
  busy_seq hb := by cases hb
  busy_done hb := by cases hb
  cmd_latched := resetIsSound.cmd_latched
  mem_wf := h.1
  sp_wf := h.2

theorem sound_setResetPin {s : State} (h : Sound s) (level : Bool) : Sound (setResetPin level s) := by
  cases level with
  | true => exact { h with reset_holds := fun hr => by cases hr }
  | false => exact sound_blockReset (s := { s with rstN := false }) h.dev_wf

theorem sound_inputStep {s : State} (h : Sound s) (i : Input) : SoundOutcome (inputStep i s) := by
  cases i with
  | port a => exact sound_portStep h a
  | resetPin level => exact soundOutcome_settle (sound_setResetPin h level)
  | bus addr bytes op =>
    rw [inputStep]
    cases windowOffset Config.params.regBase addr with
    | some off => exact sound_portStep h _
    | none => rintro t ⟨⟩

/-! CTRL's turn. -/

/-- CTRL's turn fetches a wire command at the head of SEQ, or is one CTRL step. -/
theorem ctrlTurn_cases (s : State) :
    (∃ x i rest, s.running = true ∧ s.seq = .command x :: rest ∧ decodeWire x = some i
        ∧ ctrlTurn s = exec i (s.pop rest))
      ∨ ctrlTurn s = .next (settle (ctrlStep s)) := by
  unfold ctrlTurn
  split
  next x rest hr hs =>
    cases hd : decodeWire x with
    | some i => exact .inl ⟨x, i, rest, hr, hs, hd, rfl⟩
    | none => exact .inr rfl
  next => exact .inr rfl

theorem sendWireCommand_running {s : State} (h : s.running = true) (x : Byte) :
    sendWireCommand x s = .next (settle (micro (.command x) s)) := by
  simp only [sendWireCommand, h, if_true, micro]

theorem sound_ctrlTurn {s : State} (h : Sound s) : SoundOutcome (ctrlTurn s) := by
  obtain ⟨x, i, rest, hr, hs, hd, he⟩ | he := ctrlTurn_cases s
  · obtain ⟨y, hy⟩ := exec_sendWireCommand (isWireCommand_of_decodeWire hd) (s.pop rest)
    rw [he, hy, sendWireCommand_running (s := s.pop rest) hr]
    have hseq : seqDisciplined s.lineDrive (.command x :: rest) = true :=
      hs ▸ h.busy_seq ((running_iff s).1 hr).2
    exact soundOutcome_settle (sound_micro h hr hseq)
  · rw [he]
    exact soundOutcome_settle (sound_ctrlStep h)

/-- Settles O13: an input is taken by `inputStep`, which keeps soundness, and with no input CTRL has its turn. -/
theorem stepKeepsSound : Obligations.StepKeepsSound := by
  intro s t h
  rw [step]
  cases s.inputs with
  | nil => exact sound_ctrlTurn h t
  | cons e rest => exact sound_inputStep (h.takeInput rest e.2) e.1 t

end Sys2Proof.Machine
end

section
/-! PROOFS. The register map (10_state.md R30 to R47): what a read of each offset returns and what a write to each does, said
once for each register, and the statements about reads and writes of the host port. -/

namespace Sys2Proof.Machine

/-! The words of small fields. -/

theorem toNat_zext32 {n : Nat} (hn : n ≤ 32) (x : BitVec n) : (zext32 x).toNat = x.toNat :=
  BitVec.toNat_setWidth_of_le hn

theorem toNat_zext32_flagBit (b : Bool) : (zext32 (flagBit b)).toNat = if b then 1 else 0 := by
  cases b <;> rfl

theorem zext32_word (x : Word) : zext32 x = x := BitVec.setWidth_eq x

/-! What a read of each register returns. -/

section

variable (s : State)

theorem readRegister_cmd : readRegister s 0x00 = zext32 s.cmd := rfl
theorem readRegister_status : readRegister s 0x04 = statusWord s := rfl
theorem readRegister_ctrl : readRegister s 0x08 = zext32 (flagBit s.ie) := rfl
theorem readRegister_rxdata : readRegister s 0x0C = readOutput s 0x0C s.rxdata := rfl
theorem readRegister_temp : readRegister s 0x40 = readOutput s 0x40 s.temp := rfl
theorem readRegister_volt : readRegister s 0x44 = readOutput s 0x44 s.volt := rfl
theorem readRegister_curr : readRegister s 0x48 = readOutput s 0x48 s.curr := rfl
theorem readRegister_cap : readRegister s 0x4C = readOutput s 0x4C s.cap := rfl

end

/-- The offset of DATAk (R42). -/
theorem toNat_dataOffset {k : Nat} (hk : k < 9) : (BitVec.ofNat 7 (0x10 + 4 * k)).toNat = 0x10 + 4 * k := by
  rw [BitVec.toNat_ofNat]
  omega

theorem readRegister_data (s : State) {k : Nat} (hk : k < 9) :
    readRegister s (BitVec.ofNat 7 (0x10 + 4 * k)) = readOutput s (0x10 + 4 * k) (dataByte s.data k) := by
  unfold readRegister
  dsimp only
  rw [toNat_dataOffset hk, if_neg (by omega), if_neg (by omega), if_neg (by omega), if_neg (by omega),
    if_pos (by omega), show (0x10 + 4 * k - 0x10) / 4 = k by omega]

/-- The reserved offsets (R47). -/
def reservedOffset (off : BitVec 7) : Prop :=
  off = 0x34 ∨ off = 0x38 ∨ off = 0x3C ∨ (0x50 ≤ off.toNat ∧ off.toNat % 4 = 0)

/-- The reserved offsets are words of the window past DATA8, and none of the measurement registers. -/
theorem toNat_reservedOffset {off : BitVec 7} (h : reservedOffset off) :
    off.toNat % 4 = 0 ∧ 0x30 < off.toNat ∧ (off.toNat < 0x40 ∨ 0x4C < off.toNat) := by
  obtain rfl | rfl | rfl | ⟨hlow, hword⟩ := h
  · decide
  · decide
  · decide
  · omega

theorem readRegister_reserved (s : State) {off : BitVec 7} (h : reservedOffset off) : readRegister s off = 0 := by
  obtain ⟨-, hlow, hgap⟩ := toNat_reservedOffset h
  unfold readRegister
  dsimp only
  rw [if_neg (by omega), if_neg (by omega), if_neg (by omega), if_neg (by omega), if_neg (by omega), if_neg (by omega),
    if_neg (by omega), if_neg (by omega), if_neg (by omega)]

/-- While idle every output register reads its value (R86). -/
theorem readOutput_idle {s : State} (h : s.busy = false) (off : Nat) {n : Nat} (v : BitVec n) :
    readOutput s off v = zext32 v := by
  simp [readOutput, h]

/-- Settles O18: the read of each register is its value, widened. -/
theorem idleReadsTheRegisters : Obligations.IdleReadsTheRegisters := by
  intro s hb
  rw [readRegister_cmd, readRegister_ctrl, readRegister_rxdata, readRegister_temp, readRegister_volt, readRegister_curr,
    readRegister_cap]
  simp only [readOutput_idle hb, zext32_word]
  refine ⟨toNat_zext32 (by decide) s.cmd, toNat_zext32_flagBit s.ie, toNat_zext32 (by decide) s.rxdata, fun k hk => ?_,
    trivial, toNat_zext32 (by decide) s.volt, trivial, toNat_zext32 (by decide) s.cap⟩
  rw [readRegister_data s hk, readOutput_idle hb, toNat_zext32 (by decide)]

/-! The fields of the STATUS word (R32 to R39). -/

section

variable (s : State)

/-- The STATUS word bit by bit: each field has its width from its first bit on, and bits 31:11 are 0 (R32 to R39). -/
theorem getLsbD_statusWord (i : Nat) :
    (statusWord s).getLsbD i =
      if i < 1 then (flagBit s.busy).getLsbD i
      else if i - 1 < 1 then (flagBit s.done).getLsbD (i - 1)
      else if i - 2 < 3 then (resultBits s.result).getLsbD (i - 2)
      else if i - 5 < 1 then (flagBit s.present).getLsbD (i - 5)
      else if i - 6 < 1 then (flagBit s.ready).getLsbD (i - 6)
      else if i - 7 < 1 then (flagBit s.ovr).getLsbD (i - 7)
      else if i - 8 < 3 then (busStateCode s.busState).getLsbD (i - 8)
      else false := by
  have hzero : (0 : BitVec 21).getLsbD (i - 11) = false := BitVec.getLsbD_zero
  rw [statusWord, BitVec.getLsbD_append, BitVec.getLsbD_append, BitVec.getLsbD_append, BitVec.getLsbD_append,
    BitVec.getLsbD_append, BitVec.getLsbD_append, BitVec.getLsbD_append]
  simp only [Nat.sub_sub, Nat.reduceAdd, hzero]

theorem getLsbD_flagBit (b : Bool) : (flagBit b).getLsbD 0 = b := by
  cases b <;> rfl

theorem statusWord_result : (statusWord s).extractLsb' 2 3 = resultBits s.result := by
  apply BitVec.eq_of_getLsbD_eq
  intro i hi
  rw [BitVec.getLsbD_extractLsb', getLsbD_statusWord, if_neg (by omega), if_neg (by omega), if_pos (by omega),
    Nat.add_sub_cancel_left]
  simp only [hi, decide_true, Bool.true_and]

theorem statusWord_busState : (statusWord s).extractLsb' 8 3 = busStateCode s.busState := by
  apply BitVec.eq_of_getLsbD_eq
  intro i hi
  rw [BitVec.getLsbD_extractLsb', getLsbD_statusWord, if_neg (by omega), if_neg (by omega), if_neg (by omega),
    if_neg (by omega), if_neg (by omega), if_neg (by omega), if_pos (by omega), Nat.add_sub_cancel_left]
  simp only [hi, decide_true, Bool.true_and]

theorem statusWord_reserved {i : Nat} (hi : 11 ≤ i) : (statusWord s).getLsbD i = false := by
  rw [getLsbD_statusWord, if_neg (by omega), if_neg (by omega), if_neg (by omega), if_neg (by omega), if_neg (by omega),
    if_neg (by omega), if_neg (by omega)]

end

/-- Settles O17: STATUS reads the status word, whose fields stand at their bits. -/
theorem statusReadsItsFields : Obligations.StatusReadsItsFields := by
  intro s
  rw [readRegister_status]
  have hresult := statusWord_result s
  have hbus := statusWord_busState s
  have hflag : ∀ {i : Nat} {b : Bool}, (statusWord s).getLsbD i = (flagBit b).getLsbD 0 → (statusWord s).getLsbD i = b :=
    fun h => h.trans (getLsbD_flagBit _)
  refine ⟨hflag (getLsbD_statusWord s 0), hflag (getLsbD_statusWord s 1), ?_, ?_, ?_, ?_, ?_,
    hflag (getLsbD_statusWord s 5), hflag (getLsbD_statusWord s 6), hflag (getLsbD_statusWord s 7), ?_, ?_, ?_, ?_,
    fun i hi => statusWord_reserved s hi⟩
  all_goals
    intro h
    simp only [hresult, hbus, h]
    rfl

/-! After reset (R55). -/

theorem dataByte_reset (k : Nat) : dataByte State.reset.data k = 0 := by
  simp only [dataByte, State.reset, Vector.toList_replicate, List.getD_eq_getElem?_getD, List.getElem?_replicate]
  split <;> rfl

/-- After reset every register of the window reads 0 (R55). -/
theorem readRegister_reset (off : BitVec 7) : readRegister State.reset off = 0 := by
  have hread : ∀ {n : Nat} (m : Nat) {v : BitVec n}, v = 0 → readOutput State.reset m v = 0 := by
    rintro n m v rfl
    rw [readOutput_idle rfl]
    exact BitVec.setWidth_zero 32 n
  unfold readRegister
  dsimp only
  split_ifs
  · rfl
  · rfl
  · rfl
  · exact hread _ rfl
  · exact hread _ (dataByte_reset _)
  · exact hread _ rfl
  · exact hread _ rfl
  · exact hread _ rfl
  · exact hread _ rfl
  · rfl

/-- Settles O11: the table's values field by field, then the page buffer and the window by the two lemmas above. -/
theorem resetLeavesTheTable : Obligations.ResetLeavesTheTable :=
  ⟨rfl, rfl, rfl, rfl, rfl, rfl, rfl, rfl, rfl, rfl, fun k _ => dataByte_reset k, rfl, rfl, rfl, rfl, rfl, rfl, rfl, rfl,
    rfl, rfl, readRegister_reset⟩

/-! What a write to each register does (R84, R85). -/

section

variable (s : State) (v : Word)

theorem writeRegister_status : writeRegister s 0x04 v = acknowledge v s := rfl

theorem writeRegister_ctrl : writeRegister s 0x08 v = { s with ie := v.getLsbD 0 } := rfl

theorem writeRegister_data {k : Nat} (hk : k < 9) :
    writeRegister s (BitVec.ofNat 7 (0x10 + 4 * k)) v
      = if s.busy then s else { s with data := setDataByte s.data k (v.setWidth 8) } := by
  unfold writeRegister
  dsimp only
  rw [toNat_dataOffset hk, if_neg (by omega), if_neg (by omega), if_pos (by omega),
    show (0x10 + 4 * k - 0x10) / 4 = k by omega]

/-- A write to RXDATA, or past DATA8, is ignored (R47, R84). -/
theorem writeRegister_ignored {off : BitVec 7} (h : off.toNat = 0x0C ∨ 0x30 < off.toNat) : writeRegister s off v = s := by
  unfold writeRegister
  dsimp only
  rw [if_neg (by omega), if_neg (by omega), if_neg (by omega)]

theorem writeRegister_gap (off : BitVec 7) : (writeRegister s off v).gap = s.gap := by
  obtain he | he | ⟨p, he⟩ | he := writeRegister_cases s off v <;> rw [he]
  rfl

end

theorem hostWrite_running {s : State} (hr : s.rstN = true) (off : BitVec 7) (v : Word) :
    hostWrite s off v = { writeRegister s off v with epoch := s.epoch + 1 } := by
  simp only [hostWrite, hr, if_true]

theorem hostWrite_gap (s : State) (off : BitVec 7) (v : Word) : (hostWrite s off v).gap = s.gap := by
  unfold hostWrite
  split
  · exact writeRegister_gap s v off
  · rfl

/-- A write that changes no register changes at most the model's own epoch (log 7), also in reset (R360). -/
theorem hostWrite_ignored {s : State} {off : BitVec 7} {v : Word} (h : writeRegister s off v = s) :
    ∃ e, hostWrite s off v = { s with epoch := e } := by
  unfold hostWrite
  split
  · exact ⟨s.epoch + 1, by rw [h]⟩
  · exact ⟨s.epoch, rfl⟩

/-! The step of one access that no CTRL step follows. -/

section

variable {s : State} {off : BitVec 7} {v : Word} {rest : List (Input × Nat)}

theorem step_read (hword : off.toNat % 4 = 0) (hi : s.inputs = (readAccess off, 0) :: rest) :
    step s = .next (answered s (.data (readRegister s off)) rest) := by
  rw [step, hi]
  exact (portStep_read hword).trans (congrArg _ (settle_zero rfl))

theorem step_write (hword : off.toNat % 4 = 0) (hoff : off ≠ 0) (hi : s.inputs = (writeAccess off v, 0) :: rest) :
    step s = .next ((hostWrite (s.takeInput rest 0) off v).respond .done) := by
  rw [step, hi]
  exact (portStep_write hword hoff v).trans (congrArg _ (settle_zero (hostWrite_gap _ off v)))

/-- The step of a write to a register other than CMD, out of reset: what the write does, on the state that has answered. -/
theorem step_write_running (hword : off.toNat % 4 = 0) (hoff : off ≠ 0) (hr : s.rstN = true)
    (hi : s.inputs = (writeAccess off v, 0) :: rest) :
    step s = .next { (writeRegister (s.takeInput rest 0) off v).respond .done with epoch := s.epoch + 1 } := by
  rw [step_write hword hoff hi, hostWrite_running (s := s.takeInput rest 0) hr]
  rfl

/-- The step of a write that is ignored (R47, R84), in reset or out of it. -/
theorem step_write_ignored (hword : off.toNat % 4 = 0) (hoff : off.toNat = 0x0C ∨ 0x30 < off.toNat)
    (hi : s.inputs = (writeAccess off v, 0) :: rest) :
    ∃ t, step s = .next t ∧ t = { answered s .done rest with epoch := t.epoch } := by
  have hne : off ≠ 0 := by
    rintro rfl
    simp at hoff
  obtain ⟨e, he⟩ := hostWrite_ignored (writeRegister_ignored (s.takeInput rest 0) v hoff)
  exact ⟨_, step_write hword hne hi, by rw [he]; rfl⟩

end

/-- Settles O20: a reserved offset reads 0, and a write to it lies past every register that a write can change. -/
theorem reservedOffsetsAreInert : Obligations.ReservedOffsetsAreInert := by
  intro s off rest hoff
  obtain ⟨hword, hlow, -⟩ := toNat_reservedOffset hoff
  refine ⟨fun hi => ?_, fun v hi => step_write_ignored hword (.inr hlow) hi⟩
  rw [step_read hword hi, readRegister_reserved s hoff]

/-- Settles O21: each of the five offsets is one that `writeRegister` ignores. -/
theorem readOnlyRegistersIgnoreWrites : Obligations.ReadOnlyRegistersIgnoreWrites := by
  intro s off v rest hoff hi
  have hignored : off.toNat % 4 = 0 ∧ (off.toNat = 0x0C ∨ 0x30 < off.toNat) := by
    obtain rfl | rfl | rfl | rfl | rfl := hoff <;> decide
  exact step_write_ignored hignored.1 hignored.2 hi

/-- What a write of ones clears (R33, R37). -/
theorem acknowledge_eq (v : Word) (s : State) :
    acknowledge v s = { s with
      done := if v.getLsbD 1 then false else s.done
      ovr := if v.getLsbD 7 then false else s.ovr } := by
  have hclear : ∀ a b : Bool, (a && !b) = if b then false else a := by decide
  rw [acknowledge, doneAfterWrite, ovrAfterWrite, hclear, hclear]

/-- Settles O24: a write to STATUS is the acknowledgement, and no CTRL step follows it. -/
theorem statusWriteClearsByOnes : Obligations.StatusWriteClearsByOnes := by
  intro s v rest hr hi
  refine ⟨_, step_write_running (by decide) (by decide) hr hi, ?_⟩
  rw [writeRegister_status, acknowledge_eq]
  rfl

/-- Settles O25: a write to CTRL sets IE at once, and the register and the interrupt line follow IE. -/
theorem ctrlWriteSetsEnable : Obligations.CtrlWriteSetsEnable := by
  refine ⟨rfl, fun s v rest hr hi => ?_⟩
  refine ⟨_, step_write_running (by decide) (by decide) hr hi, ?_⟩
  rw [writeRegister_ctrl, readRegister_ctrl]
  exact ⟨rfl, toNat_zext32_flagBit (v.getLsbD 0), rfl⟩

/-- Reading a page byte after storing one (R42). -/
theorem dataByte_setDataByte (p : Page) {k j : Nat} (hk : k < 9) (v : Byte) :
    dataByte (setDataByte p k v) j = if j = k then v else dataByte p j := by
  simp only [dataByte, setDataByte, Vector.toList_setIfInBounds, List.getD_eq_getElem?_getD, List.getElem?_set]
  by_cases h : j = k
  · subst h
    simp [hk]
  · rw [if_neg (Ne.symm h), if_neg h]

/-- Settles O26: by whether an operation runs, which decides what `writeRegister` does at DATAk. -/
theorem dataWritesOnlyWhileIdle : Obligations.DataWritesOnlyWhileIdle := by
  intro s k v rest hk hr hi
  have hoff := toNat_dataOffset hk
  have hne : BitVec.ofNat 7 (0x10 + 4 * k) ≠ 0 := fun h => by
    rw [h] at hoff
    simp at hoff
    omega
  refine ⟨_, step_write_running (by omega) hne hr hi, ?_⟩
  rw [writeRegister_data _ v hk]
  cases hb : s.busy with
  | true =>
    rw [if_pos (show (s.takeInput rest 0).busy = true from hb)]
    exact ⟨rfl, fun _ => rfl, fun h => by cases h⟩
  | false =>
    have hidle : ¬(s.takeInput rest 0).busy = true := by simp [hb]
    rw [if_neg hidle]
    exact ⟨rfl, fun h => (by cases h), fun _ j _ => dataByte_setDataByte s.data hk _⟩

end Sys2Proof.Machine
end

section
/-! PROOFS. Accesses of the host (20_memory.md R80 to R86): a read and an undefined access only answer, a CMD write to a
busy block is dropped, a read of a busy block keeps the reserved bits 0, and which addresses are the block's. -/

namespace Sys2Proof.Machine

/-! The inputs that only get an answer. -/

/-- What follows an input that changes nothing but the answer: the CTRL steps of the gap, from the state that has answered
(R96). -/
theorem settle_answer (s : State) (rest : List (Input × Nat)) (n : Nat) (r : HostResponse) :
    settle ((s.takeInput rest n).respond r)
      = { ctrlSteps n { s with inputs := rest, resp := r, gap := n } with gap := 0 } := rfl

/-- The port is no register: what a read returns does not depend on the last answer, nor on the model's own schedule. -/
theorem readRegister_withPort (s : State) (off : BitVec 7) (r : HostResponse) (l : List (Input × Nat)) (n : Nat) :
    readRegister { s with resp := r, inputs := l, gap := n } off = readRegister s off := rfl

section

variable {s : State} {rest : List (Input × Nat)} {n : Nat}

/-- The step of a read, whatever follows it (R83). -/
theorem step_read_settles {off : BitVec 7} (hword : off.toNat % 4 = 0) (hi : s.inputs = (readAccess off, n) :: rest) :
    step s = .next (settle ((s.takeInput rest n).respond (.data (readRegister s off)))) := by
  rw [step, hi]
  exact portStep_read hword

/-- The step of an undefined access, whatever follows it (R81, R325). -/
theorem step_fault {a : HostAccess} (ha : ¬(a.bytes = 4 ∧ a.offset.toNat % 4 = 0))
    (hi : s.inputs = (.port a, n) :: rest) :
    step s = .next (settle ((s.takeInput rest n).respond .accessFault)) := by
  rw [step, hi]
  exact portStep_fault ha

end

/-- Settles O16: a read leaves the state that has answered, and the register reads the same there. -/
theorem readsHaveNoSideEffects : Obligations.ReadsHaveNoSideEffects := by
  intro s off n rest hword hi
  refine ⟨by rw [step_read_settles hword hi, settle_answer], ?_⟩
  rintro m rest' rfl rfl
  refine ⟨_, step_read hword hi, rfl, ?_⟩
  rw [step_read_settles hword rfl, settle_answer]
  simp only [answered, readRegister_withPort]

/-- Settles O22: an undefined access is its answer and the gap, whatever runs. -/
theorem accessFaultChangesNothing : Obligations.AccessFaultChangesNothing := by
  intro s a n rest hi ha
  rw [step_fault ha hi, settle_answer]

/-! Reads of a busy block. -/

/-- Whatever a busy read gives, it is cut to the register's bits (R86). -/
theorem readOutput_lt {n : Nat} (hn : n ≤ 32) (s : State) (off : Nat) (v : BitVec n) :
    (readOutput s off v).toNat < 2 ^ n := by
  unfold readOutput
  split
  · rw [toNat_zext32 hn]
    exact BitVec.isLt _
  · rw [toNat_zext32 hn]
    exact v.isLt

/-- Settles O19: CMD and CTRL read as they do while idle, and `readOutput` cuts the others to their bits. -/
theorem busyReadsKeepReservedBitsZero : Obligations.BusyReadsKeepReservedBitsZero := by
  intro s _
  rw [readRegister_cmd, readRegister_ctrl, readRegister_rxdata, readRegister_volt, readRegister_cap]
  refine ⟨toNat_zext32 (by decide) s.cmd, toNat_zext32_flagBit s.ie, readOutput_lt (by decide) s _ _, fun k hk => ?_,
    readOutput_lt (by decide) s _ _, readOutput_lt (by decide) s _ _⟩
  rw [readRegister_data s hk]
  exact readOutput_lt (by decide) s _ _

/-! CMD writes to a busy block. -/

/-- A CMD write is one `runCommand`, whatever word it writes (R148). -/
theorem commandWrite_runCommand (w : CmdWord) (s : State) :
    ∃ w' ops, commandWrite w s = runCommand w' ops s := by
  rw [commandWrite]
  cases hd : decode w with
  | instr i =>
    obtain ⟨w', ops, he, -⟩ := exec_runCommand (isHostCommand_of_decode hd) s
    exact ⟨w', ops, he⟩
  | illegal op => exact ⟨w, _, rfl⟩

/-- A CMD write to a busy block is dropped with OVR (R85, R326), and the gap passes. -/
theorem commandWrite_drops {s : State} (hr : s.rstN = true) (hb : s.busy = true) (w : CmdWord) :
    commandWrite w s = .next (settle { s with ovr := true, epoch := s.epoch + 1 }) := by
  obtain ⟨w', ops, he⟩ := commandWrite_runCommand w s
  rw [he, runCommand, offer_drops hr hb]

/-- Settles O28: the write is dropped in the state that has answered, and no CTRL step follows it. -/
theorem commandWhileBusyIsDropped : Obligations.CommandWhileBusyIsDropped := by
  intro s v rest hr hb hi
  have hdrop := commandWrite_drops (s := (s.takeInput rest 0).respond .done) hr hb (v.setWidth 16)
  rw [step, hi]
  exact (portStep_command v).trans (hdrop.trans (congrArg _ (settle_zero rfl)))

/-! Host addresses (R80). -/

/-- An address of the window is its offset. -/
theorem windowOffset_add (base : Nat) (off : BitVec 7) : windowOffset base (base + off.toNat) = some off := by
  have hlt : base ≤ base + off.toNat ∧ base + off.toNat < base + Config.windowBytes :=
    ⟨Nat.le_add_right _ _, Nat.add_lt_add_left off.isLt base⟩
  rw [windowOffset, if_pos hlt, Nat.add_sub_cancel_left, BitVec.ofNat_toNat, BitVec.setWidth_eq]

/-- An address below the window or past its end has no offset. -/
theorem windowOffset_outside {base addr : Nat} (h : addr < base ∨ base + Config.windowBytes ≤ addr) :
    windowOffset base addr = none := by
  rw [windowOffset, if_neg (by omega)]

/-- An access at an address of the window is the access of the port at its offset. -/
theorem inputStep_bus_inside (off : BitVec 7) (bytes : Nat) (op : HostOp) (s : State) :
    inputStep (.bus (Config.params.regBase + off.toNat) bytes op) s = inputStep (.port ⟨op, bytes, off⟩) s := by
  simp only [inputStep, windowOffset_add]

/-- An access at an address outside the window stops the step (log 9). -/
theorem inputStep_bus_outside {addr : Nat}
    (h : addr < Config.params.regBase ∨ Config.params.regBase + Config.windowBytes ≤ addr) (bytes : Nat) (op : HostOp)
    (s : State) : inputStep (.bus addr bytes op) s = .fault (.outsideWindow addr) := by
  simp only [inputStep, windowOffset_outside h]

/-- Settles O23: by whether the address lies in the window. -/
theorem windowLiesAtRegBase : Obligations.WindowLiesAtRegBase := by
  intro s addr bytes op n rest hi
  constructor
  · rintro off rfl
    rw [step, hi]
    exact inputStep_bus_inside off bytes op (s.takeInput rest n)
  · intro houtside
    rw [step, hi]
    exact inputStep_bus_outside houtside bytes op (s.takeInput rest n)

end Sys2Proof.Machine
end

section
/-! PROOFS. The encoding (30_encoding.md): the rows of the two opcode maps are told apart by their OP, their mnemonic or
their byte, so the decoder and the encoder are inverse, and the unassigned OPs are what no row has. -/

namespace Sys2Proof

/-! Looking a row up by a key that no two rows share. -/

/-- The search for the key of an entry finds that entry, when no two entries share a key. -/
theorem find?_key_eq_some {α κ : Type} [DecidableEq κ] {key : α → κ} {l : List α} (hl : (l.map key).Nodup) {a : α}
    (ha : a ∈ l) : l.find? (fun b => key b == key a) = some a := by
  cases hf : l.find? (fun b => key b == key a) with
  | none => simpa using List.find?_eq_none.1 hf a ha
  | some b =>
    have hkey : key b = key a := by simpa using List.find?_some hf
    rw [List.inj_on_of_nodup_map hl (List.mem_of_find?_eq_some hf) ha hkey]

theorem hostRows_op_nodup : (hostRows.map HostRow.op).Nodup := by decide

theorem hostRows_mnemonic_nodup : (hostRows.map HostRow.mnemonic).Nodup := by decide

theorem wireRows_byte_nodup : (wireRows.map Prod.fst).Nodup := by decide

/-! The decoder on the rows, and on no row. -/

section

variable {r : HostRow} {op : Byte} {w : CmdWord} {i : Instr}

/-- The word of a row spells the row's operation with the word's ARG (R133, R135). -/
theorem decode_row (hr : r ∈ hostRows) (arg : Byte) : decode (cmdWord r.op arg) = .instr (r.make arg) := by
  rw [decode_cmdWord, find?_key_eq_some hostRows_op_nodup hr]

/-- An OP that is no row's spells ILLEGAL with every ARG (R134). -/
theorem decode_unassigned (hop : ∀ r ∈ hostRows, r.op ≠ op) (arg : Byte) : decode (cmdWord op arg) = .illegal op := by
  have hf : hostRows.find? (fun r => r.op == op) = none := List.find?_eq_none.2 (by simpa using hop)
  rw [decode_cmdWord, hf]

/-- An OP is a row's or no row's. -/
theorem row_or_unassigned (op : Byte) : (∃ r ∈ hostRows, r.op = op) ∨ ∀ r ∈ hostRows, r.op ≠ op := by
  by_cases h : ∃ r ∈ hostRows, r.op = op
  · exact .inl h
  · exact .inr fun r hr hop => h ⟨r, hr, hop⟩

/-- A wire byte decodes to the command of its row (R137 to R143). -/
theorem decodeWire_row {b : Byte} (h : (b, i) ∈ wireRows) : decodeWire b = some i := by
  rw [decodeWire, find?_key_eq_some wireRows_byte_nodup h, Option.map_some]

/-- The word of a row's operation (R133). -/
theorem encode_row : ∀ r ∈ hostRows, ∀ arg, encode (r.make arg) = .cmd16 (cmdWord r.op arg) :=
  hostRows_cases (by simp [hostRows, encode])

/-- Every instruction lies in its row: the lemmas of Laws/PerInstr.lean together. -/
theorem tableRow (i : Instr) : Laws.TableRow.Statement i :=
  match i with
  | .busReset arg => Laws.TableRow.busReset arg
  | .writeBit arg => Laws.TableRow.writeBit arg
  | .readBit arg => Laws.TableRow.readBit arg
  | .writeByte arg => Laws.TableRow.writeByte arg
  | .readByte arg => Laws.TableRow.readByte arg
  | .readPage arg => Laws.TableRow.readPage arg
  | .writePage arg => Laws.TableRow.writePage arg
  | .startVConv arg => Laws.TableRow.startVConv arg
  | .startTConv arg => Laws.TableRow.startTConv arg
  | .hasDataV arg => Laws.TableRow.hasDataV arg
  | .hasDataT arg => Laws.TableRow.hasDataT arg
  | .readVoltage arg => Laws.TableRow.readVoltage arg
  | .readTemperature arg => Laws.TableRow.readTemperature arg
  | .getCurrent arg => Laws.TableRow.getCurrent arg
  | .getCapacity arg => Laws.TableRow.getCapacity arg
  | .enableIAD arg => Laws.TableRow.enableIAD arg
  | .disableIAD arg => Laws.TableRow.disableIAD arg
  | .enableCA arg => Laws.TableRow.enableCA arg
  | .disableCA arg => Laws.TableRow.disableCA arg
  | .selectInput arg => Laws.TableRow.selectInput arg
  | .decodeTemp arg => Laws.TableRow.decodeTemp arg
  | .decodeVolt arg => Laws.TableRow.decodeVolt arg
  | .decodeCurr arg => Laws.TableRow.decodeCurr arg
  | .decodeCap arg => Laws.TableRow.decodeCap arg
  | .skipROM => Laws.TableRow.skipROM
  | .recallMemory => Laws.TableRow.recallMemory
  | .readScratchpad => Laws.TableRow.readScratchpad
  | .writeScratchpad => Laws.TableRow.writeScratchpad
  | .copyScratchpad => Laws.TableRow.copyScratchpad
  | .voltageConvert => Laws.TableRow.voltageConvert
  | .tempConvert => Laws.TableRow.tempConvert

/-- What has a command word is a host command, and the word spells it (R130, R135). -/
theorem decode_of_encode_cmd16 (h : encode i = .cmd16 w) : i.isHostCommand = true ∧ decode w = .instr i := by
  have hrow := tableRow i
  rw [Laws.TableRow.Statement, h] at hrow
  obtain ⟨hhost, r, hr, hop, rfl⟩ := hrow
  refine ⟨hhost, ?_⟩
  calc decode w = decode (cmdWord r.op (argField w)) := by rw [hop, cmdWord_fields]
    _ = .instr (r.make (argField w)) := decode_row hr _

/-- What has a wire byte is a wire command, and the byte decodes to it (R137 to R143). -/
theorem decodeWire_of_encode_wire8 {b : Byte} (h : encode i = .wire8 b) :
    i.isWireCommand = true ∧ decodeWire b = some i := by
  have hrow := tableRow i
  rw [Laws.TableRow.Statement, h] at hrow
  exact ⟨hrow.1, decodeWire_row hrow.2⟩

/-- A word spells an instruction exactly when it is the instruction's word (R135). -/
theorem decode_eq_instr_iff : decode w = .instr i ↔ encode i = .cmd16 w := by
  refine ⟨fun h => ?_, fun h => (decode_of_encode_cmd16 h).2⟩
  rw [← cmdWord_fields w] at h ⊢
  obtain ⟨r, hr, hop⟩ | hop := row_or_unassigned (opField w)
  · rw [← hop, decode_row hr, Decoded.instr.injEq] at h
    rw [← h, encode_row r hr, hop]
  · rw [decode_unassigned hop] at h
    cases h

/-- A word spells ILLEGAL exactly by an OP of its own that is no row's (R134, R135). -/
theorem decode_eq_illegal_iff : decode w = .illegal op ↔ op = opField w ∧ ∀ r ∈ hostRows, r.op ≠ op := by
  rw [← cmdWord_fields w, opField_cmdWord]
  obtain ⟨r, hr, hop⟩ | hop := row_or_unassigned (opField w)
  · rw [← hop, decode_row hr]
    refine ⟨fun h => (by cases h), ?_⟩
    rintro ⟨rfl, hno⟩
    exact absurd rfl (hno r hr)
  · rw [decode_unassigned hop, Decoded.illegal.injEq]
    exact ⟨fun h => h ▸ ⟨rfl, hop⟩, fun h => h.1.symm⟩

theorem toNat_opField (w : CmdWord) : (opField w).toNat = w.toNat / 256 := by
  conv_rhs => rw [← cmdWord_fields w, toNat_cmdWord]
  have := (argField w).isLt
  omega

theorem toNat_argField (w : CmdWord) : (argField w).toNat = w.toNat % 256 := by
  conv_rhs => rw [← cmdWord_fields w, toNat_cmdWord]
  have := (argField w).isLt
  omega

/-- The unassigned OPs are the ranges of R134. -/
theorem unassigned_iff_ranges (op : Byte) :
    (∀ r ∈ hostRows, r.op ≠ op) ↔
      (op.toNat = 0x00 ∨ (0x06 ≤ op.toNat ∧ op.toNat ≤ 0x0F) ∨ (0x12 ≤ op.toNat ∧ op.toNat ≤ 0x1F)
        ∨ (0x28 ≤ op.toNat ∧ op.toNat ≤ 0x2F) ∨ (0x35 ≤ op.toNat ∧ op.toNat ≤ 0x3F) ∨ 0x44 ≤ op.toNat) := by
  rw [← List.forall_iff_forall_mem]
  simp only [hostRows, List.Forall, ne_eq, ← BitVec.toNat_inj, BitVec.reduceToNat]
  omega

/-! Assembler lines (R146). -/

/-- A line with the mnemonic of a row and a number in range assembles to the row's OP with the number, 0 if none is
written. -/
theorem assemble_row (hr : r ∈ hostRows) {arg : Option Nat} (h : (AsmLine.mk r.mnemonic arg).argInRange = true) :
    assemble ⟨r.mnemonic, arg⟩ = some (cmdWord r.op (BitVec.ofNat 8 (arg.getD 0))) := by
  rw [assemble, if_pos h, find?_key_eq_some hostRows_mnemonic_nodup hr, Option.map_some]

end

/-! The statements of the family about the words themselves. -/

/-- Settles O1: an instruction has a command word or a wire byte, and its row of that format decodes it. -/
theorem decodeInvertsEncode : Obligations.DecodeInvertsEncode := by
  intro i
  cases he : encode i with
  | cmd16 w =>
    obtain ⟨hhost, hdec⟩ := decode_of_encode_cmd16 he
    exact ⟨by rw [decodeEncoded, hdec], fun _ => ⟨w, rfl⟩, fun _ => hhost⟩
  | wire8 b =>
    obtain ⟨hwire, hdec⟩ := decodeWire_of_encode_wire8 he
    refine ⟨hdec, fun hhost => ?_, fun ⟨w, hw⟩ => by cases hw⟩
    simp [Instr.isHostCommand, hwire] at hhost

/-- Settles O2: the two readings of a word, with OP and the ranges as numbers. -/
theorem decoderIsTotalAndExact : Obligations.DecoderIsTotalAndExact := by
  intro w
  refine ⟨fun i => decode_eq_instr_iff, fun op => ?_⟩
  rw [decode_eq_illegal_iff, ← unassigned_iff_ranges, ← toNat_opField, BitVec.toNat_inj]

/-- Settles O3: by whether the OP is a row's. -/
theorem opAloneSelects : Obligations.OpAloneSelects := by
  intro op
  obtain ⟨r, hr, rfl⟩ | hop := row_or_unassigned op
  · exact .inl ⟨r, hr, rfl, decode_row hr⟩
  · exact .inr ⟨hop, decode_unassigned hop⟩

/-- Settles O4: a word spells the instruction whose word it is, by the encoder; the last three are looked up. -/
theorem wordsDecodeAsTheMapSays : Obligations.WordsDecodeAsTheMapSays :=
  ⟨decode_eq_instr_iff.2 rfl, decode_eq_instr_iff.2 rfl, decode_eq_instr_iff.2 rfl, decode_eq_instr_iff.2 rfl,
    decode_eq_instr_iff.2 rfl, decode_eq_instr_iff.2 rfl, decode_eq_instr_iff.2 rfl, decode_eq_instr_iff.2 rfl,
    decode_eq_instr_iff.2 rfl, decode_eq_illegal_iff.2 (by decide), decodeWire_row (by decide), decodeWire_row (by decide)⟩

/-- Settles O5: an argument in range fits the ARG byte, so the word's number and operation are the row's. -/
theorem assemblerForms : Obligations.AssemblerForms := by
  intro r hr
  refine ⟨fun n hn => ?_, ?_, fun n hn => ?_⟩
  · have hfits : (BitVec.ofNat 8 n).toNat = n := Nat.mod_eq_of_lt (by omega)
    exact ⟨_, assemble_row hr (by simpa [AsmLine.argInRange] using hn), by rw [toNat_cmdWord, Option.getD_some, hfits],
      decode_row hr _⟩
  · rw [assemble_row hr rfl, assemble_row hr rfl, Option.getD_none, Option.getD_some]
  · rw [assemble, if_neg (by simpa [AsmLine.argInRange] using hn)]

end Sys2Proof
end

section
/-! PROOFS. Commands in the step (30_encoding.md R136 to R148): which instruction a CMD write and a wire byte run, what an
idle block latches when it accepts a command, and the byte each wire command sends. -/

namespace Sys2Proof.Machine

/-! A CMD write. -/

/-- The step of a CMD write, whatever the word (R148). -/
theorem step_command {s : State} {v : Word} {n : Nat} {rest : List (Input × Nat)}
    (hi : s.inputs = (writeAccess 0 v, n) :: rest) :
    step s = commandWrite (v.setWidth 16) ((s.takeInput rest n).respond .done) := by
  rw [step, hi]
  exact portStep_command v

theorem commandWrite_instr {w : CmdWord} {i : Instr} (hd : decode w = .instr i) (s : State) :
    commandWrite w s = exec i s := by
  simp only [commandWrite, hd]

theorem commandWrite_illegal {w : CmdWord} {op : Byte} (hd : decode w = .illegal op) (s : State) :
    commandWrite w s = illegalCommand w s := by
  simp only [commandWrite, hd]

/-- Settles O6: the CMD write decodes its word in the state that has taken the input and answered. -/
theorem stepRunsDecodedCommand : Obligations.StepRunsDecodedCommand := by
  intro s v n rest hi
  rw [step_command hi]
  exact ⟨fun i hd => commandWrite_instr hd _, fun op hd => commandWrite_illegal hd _⟩

/-! Acceptance (R148). -/

/-- A command that an idle block accepts, when no CTRL step follows before the next input. -/
theorem runCommand_accepts {s : State} (hr : s.rstN = true) (hb : s.busy = false) (hg : s.gap = 0) (w : CmdWord)
    (ops : List Micro) : runCommand w ops s = .next (accepted w ops s) := by
  rw [runCommand, offer_accepts hr hb, settle_zero (show (accepted w ops s).gap = 0 from hg)]

/-- An idle block accepts every command word, with an operation in SEQ. -/
theorem commandWrite_accepts {s : State} (hr : s.rstN = true) (hb : s.busy = false) (hg : s.gap = 0) (w : CmdWord) :
    ∃ ops, ops ≠ [] ∧ commandWrite w s = .next (accepted w ops s) := by
  cases hd : decode w with
  | illegal op => exact ⟨_, List.cons_ne_nil _ _, (commandWrite_illegal hd s).trans (runCommand_accepts hr hb hg w _)⟩
  | instr i =>
    have hhost := isHostCommand_of_decode hd
    obtain ⟨w₁, ops₁, hexec₁, henc⟩ := exec_runCommand hhost s
    obtain ⟨w₂, ops, hexec, hdisc⟩ := exec_disciplined hhost s
    rw [runCommand_accepts hr hb hg] at hexec₁ hexec
    have hw₁ : w₁ = w := Encoded.cmd16.inj (henc.symm.trans (decode_eq_instr_iff.1 hd))
    have hw₂ : w₂ = w₁ := congrArg State.cmd (Host.Outcome.next.inj (hexec.symm.trans hexec₁))
    subst hw₂ hw₁
    refine ⟨ops, ?_, (commandWrite_instr hd s).trans hexec⟩
    rintro rfl
    cases hdisc

/-- OP of the low half of a host word (R30, R130). -/
theorem opField_setWidth (v : Word) : opField (v.setWidth 16) = (v >>> 8).setWidth 8 := by
  apply BitVec.eq_of_toNat_eq
  rw [toNat_opField, BitVec.toNat_setWidth, BitVec.toNat_setWidth, BitVec.toNat_ushiftRight, Nat.shiftRight_eq_div_pow]
  omega

/-- ARG of the low half of a host word (R30, R130). -/
theorem argField_setWidth (v : Word) : argField (v.setWidth 16) = v.setWidth 8 := by
  apply BitVec.eq_of_toNat_eq
  rw [toNat_argField, BitVec.toNat_setWidth, BitVec.toNat_setWidth]
  omega

/-- Settles O27: the accepted word is the low half of the host's word, whose OP and ARG are its two low bytes. -/
theorem acceptanceLatchesCommand : Obligations.AcceptanceLatchesCommand := by
  intro s v rest hr hb hi
  obtain ⟨ops, hops, hcmd⟩ :=
    commandWrite_accepts (s := (s.takeInput rest 0).respond .done) hr hb rfl (v.setWidth 16)
  refine ⟨ops, hops, ?_⟩
  rw [step_command hi, hcmd, ← opField_setWidth, ← argField_setWidth]
  rfl

/-! Wire commands. -/

/-- CTRL's turn at a wire byte fetches the command the byte decodes to (R136, log 14). -/
theorem ctrlTurn_command {s : State} {x : Byte} {i : Instr} {rest : List Micro} (hr : s.running = true)
    (hs : s.seq = .command x :: rest) (hd : decodeWire x = some i) : ctrlTurn s = exec i (s.pop rest) := by
  simp only [ctrlTurn, hr, hs, hd]

/-- With no input CTRL has its turn (log 1). -/
theorem step_ctrlTurn {s : State} (hi : s.inputs = []) : step s = ctrlTurn s := by
  simp only [step, hi]

/-- Settles O7: CTRL's turn at the wire byte. -/
theorem stepRunsWireCommand : Obligations.StepRunsWireCommand := by
  intro s x i rest hi hr hb hs hd
  exact (step_ctrlTurn hi).trans (ctrlTurn_command ((running_iff s).2 ⟨hr, hb⟩) hs hd)

/-- Each wire command sends the byte of its row (R137 to R143). -/
theorem exec_wireRow : ∀ r ∈ wireRows, ∀ s, exec r.2 s = sendWireCommand r.1 s :=
  List.forall_iff_forall_mem.1
    ⟨fun _ => rfl, fun _ => rfl, fun _ => rfl, fun _ => rfl, fun _ => rfl, fun _ => rfl, fun _ => rfl⟩

/-- The byte a running operation sends at a wire command: eight write slots, with SEQ where it was (R167). -/
theorem run_startCommand {s : State} (hr : s.running = true) (x : Byte) :
    ctrlSteps 32 (startCommand x s) = { s with
      busState := .bitSlot
      lineDrive := false
      slot := 0
      shift := x
      epoch := s.epoch + 32
      dev := devAfterByte s.line s.dev x
      trace := (frameWriteByte x).reverse ++ s.trace } :=
  run_writeByte (s := startCommand x s) (rest := s.seq) hr rfl rfl

/-- Settles O37: the byte takes the first 32 CTRL steps of the gap, and SEQ goes on for the others. -/
theorem wireCommandsSendTheirByte : Obligations.WireCommandsSendTheirByte := by
  intro i x s hmem hr hb hgap
  obtain ⟨r, hrow, hswap⟩ := List.mem_map.1 (show (i, x) ∈ wireRows.map Prod.swap from hmem)
  obtain ⟨rfl, rfl⟩ := Prod.mk.inj hswap
  have hrun := (running_iff s).2 ⟨hr, hb⟩
  have hsteps : ctrlSteps s.gap (startCommand r.1 s) = ctrlSteps (s.gap - 32) (ctrlSteps 32 (startCommand r.1 s)) := by
    rw [← ctrlSteps_add, Nat.add_sub_cancel' hgap]
  rw [exec_wireRow r hrow, sendWireCommand, if_pos hrun, settle,
    show (startCommand r.1 s).gap = s.gap from rfl, hsteps, run_startCommand hrun]
  rfl

end Sys2Proof.Machine
end

section
/-! PROOFS. The PHY family (40_transport.md R160 to R177): one CTRL step at each primitive of the line, and the raw
operations from their acceptance to their completion. -/

namespace Sys2Proof.Machine

/-! One CTRL step of a running operation (R160 to R163). -/

/-- With no input and no CTRL step owed, the step of a running operation is the work of the position at the head of SEQ,
unless that position fetches a wire command (R48). -/
theorem step_micro {s : State} {m : Micro} {rest : List Micro} (hi : s.inputs = []) (hr : s.running = true)
    (hg : s.gap = 0) (hs : s.seq = m :: rest) (hm : ∀ x, m ≠ .command x) : step s = .next (micro m (s.pop rest)) := by
  obtain ⟨x, -, rest', -, hcmd, -, -⟩ | hturn := ctrlTurn_cases s
  · exact absurd (List.cons.inj (hs.symm.trans hcmd)).1 (hm x)
  · obtain ⟨-, -, -, -, -, -, -, -, hgap, -⟩ := ctrlStep_frame s
    rw [step_ctrlTurn hi, hturn, settle_zero (hgap.trans hg), ctrlStep_cons hr hs]

/-- The free LINE gives its next level in the presence window (R163). -/
theorem presenceLevel_free {s : State} (hl : s.line = .free) : s.presenceLevel = s.level 0 := by
  rw [State.presenceLevel, hl, presenceLevelOf_free, level_eq]

/-- The free LINE gives its next level in a read slot (R163). -/
theorem slotLevel_free {s : State} (hl : s.line = .free) : s.slotLevel = s.level 0 := by
  rw [State.slotLevel, hl, level_eq]
  exact freeLevel_eq _ _

/-- The sample of a read slot on the free LINE (R163). -/
theorem sampleBit_free {s : State} (hl : s.line = .free) :
    sampleBit s = { s with
      vbit := s.level 0
      samples := s.samples.drop 1
      draws := s.draws + 1
      trace := .sample (s.level 0) :: s.trace } := by
  simp only [sampleBit, State.lineAfterRead, slotLevel_free hl, hl, samplesAfter_free, devAfterRead_free]

/-- The presence sample on the free LINE (R163). -/
theorem samplePresence_free {s : State} (hl : s.line = .free) :
    samplePresence s = { s with
      vbit := s.level 0
      samples := s.samples.drop 1
      draws := s.draws + 1
      trace := .sample (s.level 0) :: s.trace } := by
  simp only [samplePresence, State.lineAfterReset, presenceLevel_free hl, hl, samplesAfter_free, devAfterReset_free]

/-- Settles O8: the step is the work of the position; the two samples take the next level of the free LINE. -/
theorem linePrimitives : Obligations.LinePrimitives := by
  intro s rest hi hr hb hg
  have hstep : ∀ m, (∀ x, m ≠ .command x) → s.seq = m :: rest → step s = .next (micro m (s.pop rest)) :=
    fun m hm hs => step_micro hi ((running_iff s).2 ⟨hr, hb⟩) hg hs hm
  refine ⟨rfl, hstep .slotLow nofun, hstep .writeSlot nofun, hstep .readSlot nofun, hstep .resetLow nofun,
    hstep .release nofun, hstep .resetRelease nofun, fun b => hstep (.releaseBit b) nofun, fun t => hstep (.wait t) nofun,
    hstep .waitPresence nofun, ?_⟩
  rintro hl (hs | hs)
  · exact (hstep .sampleBit nofun hs).trans (congrArg _ (sampleBit_free hl))
  · exact (hstep .samplePresence nofun hs).trans (congrArg _ (samplePresence_free hl))

/-! BUS_RESET (R173). -/

/-- Settles O31: the seven positions of the reset and the completion; BUS_RESET raises no code of its own. -/
theorem busResetCompletes : Obligations.BusResetCompletes := by
  intro arg s hidle
  have hrun := accepted_running hidle.1 (cmdWord 0x01 arg) (resetOps none ++ [.finish .ok])
  exact ⟨_, runCommand_ok hidle (run_reset hrun rfl) hrun rfl, rfl⟩

/-! The gate of the raw operations (R172). -/

theorem gated_present {s : State} (h : s.present = true) (ops : List Micro) : gated s ops = ops := if_pos h

theorem gated_absent {s : State} (h : s.present = false) (ops : List Micro) :
    gated s ops = [.finish .deviceNotFound] := if_neg (by simp [h])

/-- A failed operation that lists no output but perhaps RXDATA leaves every other register alone (R338). -/
theorem scrambleOutputs_of_rxdata {s : State} {reads : Bool} (h : outputsOf s.opl = { rxdata := reads }) :
    s.scrambleOutputs = { s with rxdata := s.scrambleOutputs.rxdata } := by
  simp only [State.scrambleOutputs, h, Bool.false_eq_true, if_false]

/-- The raw operations list no output but RXDATA (R174 to R177), and without PRESENT they only finish (R172). -/
theorem rawOperation_absent {arg : Byte} {i : Instr} {op : Byte} {reads : Bool} {s : State}
    (hmem : (i, op, reads) ∈ [(Instr.writeBit arg, (0x02 : Byte), false), (.readBit arg, 0x03, true),
      (.writeByte arg, 0x04, false), (.readByte arg, 0x05, true)])
    (h : s.present = false) :
    exec i s = runCommand (cmdWord op arg) [.finish .deviceNotFound] s ∧ outputsOf op = { rxdata := reads } := by
  simp only [List.mem_cons, List.not_mem_nil, or_false, Prod.mk.injEq] at hmem
  obtain ⟨rfl, rfl, rfl⟩ | ⟨rfl, rfl, rfl⟩ | ⟨rfl, rfl, rfl⟩ | ⟨rfl, rfl, rfl⟩ := hmem
  · exact ⟨by rw [exec, execWriteBit, gated_absent h], by decide⟩
  · exact ⟨by rw [exec, execReadBit, gated_absent h], by decide⟩
  · exact ⟨by rw [exec, execWriteByte, gated_absent h], by decide⟩
  · exact ⟨by rw [exec, execReadByte, gated_absent h], by decide⟩

/-- Settles O32: `Finish` is the one position, and of the registers only the listed RXDATA is left unspecified. -/
theorem rawOperationsNeedPresence : Obligations.RawOperationsNeedPresence := by
  intro arg i op reads s hmem ⟨hr, hb, hg⟩ hp
  obtain ⟨hexec, houts⟩ := rawOperation_absent hmem hp
  have hrun := accepted_running hr (cmdWord op arg) [.finish .deviceNotFound]
  have hfin : ctrlSteps 1 (accepted (cmdWord op arg) [.finish .deviceNotFound] s)
      = finish .deviceNotFound ((accepted (cmdWord op arg) [.finish .deviceNotFound] s).pop []) := ctrlStep_cons hrun rfl
  have hopl : outputsOf ((accepted (cmdWord op arg) [.finish .deviceNotFound] s).pop []).opl = { rxdata := reads } :=
    (congrArg outputsOf (extract_op op arg)).trans houts
  refine ⟨_, hexec.trans (runCommand_finish hr hb hg hfin), ?_, ?_⟩
  · rw [finish_of_ne_ok (by decide), scrambleOutputs_of_rxdata hopl]
    rfl
  · rintro rfl
    exact finish_keeps State.rxdata (fun _ => rfl) scrambleOutputs_rxdata (.inr (by rw [hopl]; decide))

/-! One slot (R174, R175). -/

/-- `OW_WriteBit(b)` (R165). -/
theorem run_writeBit {s : State} {b : Bool} {rest : List Micro} (hr : s.running = true)
    (hs : s.seq = writeBitOps b ++ rest) :
    ctrlSteps 4 s =
      { s with
        busState := .bitSlot
        lineDrive := false
        seq := rest
        epoch := s.epoch + 4
        dev := devAfterWrite s.line s.dev b
        trace := (frameWriteBit b).reverse ++ s.trace } := by
  have hr' := (running_iff s).1 hr
  cases b <;>
  simp [ctrlSteps, ctrlStep, hs, hr', State.running, micro, writeBitOps, writeBitTail, frameWriteBit, State.pop,
    State.lineLow, State.waitFor, State.emit, releaseBit, State.lineRelease, State.lineAfterWrite]

/-- Settles O33: the four positions of the write slot and the completion. -/
theorem writeBitCompletes : Obligations.WriteBitCompletes := by
  intro arg s hidle hp
  have hrun := accepted_running hidle.1 (cmdWord 0x02 arg) (writeBitOps (argBit arg) ++ [.finish .ok])
  rw [exec, execWriteBit, gated_present hp]
  exact ⟨_, runCommand_ok hidle (run_writeBit hrun rfl) hrun rfl, rfl⟩

/-- Settles O34: the six positions of the read slot, the write of RXDATA and the completion. -/
theorem readBitCompletes : Obligations.ReadBitCompletes := by
  intro arg s hidle hp
  have hrun := accepted_running hidle.1 (cmdWord 0x03 arg) (readBitOps ++ [.storeRxBit, .finish .ok])
  rw [exec, execReadBit, gated_present hp]
  exact ⟨_, runCommand_ok hidle (run_then (run_readBit hrun rfl) hrun rfl) hrun rfl, rfl⟩

/-! Eight slots (R176, R177). -/

/-- Settles O35: the byte is loaded, its eight write slots follow, and the operation completes. -/
theorem writeByteCompletes : Obligations.WriteByteCompletes := by
  intro arg s hidle hp
  have hrun := accepted_running hidle.1 (cmdWord 0x04 arg) (writeByteOps arg ++ [.finish .ok])
  rw [exec, execWriteByte, gated_present hp]
  exact ⟨_, runCommand_ok hidle (run_loadByte hrun rfl) hrun rfl, rfl⟩

/-- Bit `i` of the byte that the next eight read slots of the free LINE give is its `i`-th level (R168). -/
theorem getLsbD_nextByte_free {s : State} (hl : s.line = .free) {i : Nat} (hi : i < 8) :
    (nextByte s).getLsbD i = s.level i := by
  rw [nextByte, hl, getLsbD_receivedByte (readLevels_length _ _ _ _ _) hi, getElem?_readLevels_free hi, Option.getD_some,
    level_eq]

/-- `OW_ReadByte()` on the free LINE (R168): eight levels are spent, and the device is left alone. -/
theorem run_readByte_free {s : State} {rest : List Micro} (hr : s.running = true)
    (hs : s.seq = readByteOps ++ rest) (hl : s.line = .free) :
    ∃ v, ctrlSteps 57 s =
      { s with
        busState := .bitSlot
        lineDrive := false
        vbit := v
        slot := 0
        shift := nextByte s
        seq := rest
        epoch := s.epoch + 57
        samples := s.samples.drop 8
        draws := s.draws + 8
        trace := (frameReadByte (nextByte s)).reverse ++ s.trace } := by
  obtain ⟨v, hv⟩ := run_readByte (rest := rest) hr hs
  refine ⟨v, ?_⟩
  rw [hv, hl, samplesAfterReads_free, devAfterReads_free]

/-- Settles O36: the eight read slots, the write of RXDATA and the completion; the received byte is made of the levels of
the free LINE. -/
theorem readByteCompletes : Obligations.ReadByteCompletes := by
  intro arg s hidle hp hl
  have hrun := accepted_running hidle.1 (cmdWord 0x05 arg) (readByteOps ++ [.storeRxByte, .finish .ok])
  obtain ⟨v, hv⟩ := run_readByte_free (rest := [.storeRxByte, .finish .ok]) hrun rfl hl
  rw [exec, execReadByte, gated_present hp]
  exact ⟨_, runCommand_ok hidle (run_then hv hrun rfl) hrun rfl, rfl, fun i hi => getLsbD_nextByte_free hl hi⟩

end Sys2Proof.Machine
end

section
/-! PROOFS. Page access (41_register_access.md): the page test before any bus activity, READ_PAGE and WRITE_PAGE for every
LINE, the write and read back of a page with the reference device, and the resets at which a page transaction ends. -/

namespace Sys2Proof.Machine

/-! The page test (R200). -/

theorem pageInRange_iff (n : Byte) : pageInRange n = true ↔ n.toNat ≤ 7 := by
  rw [pageInRange, decide_eq_true_iff]
  exact Nat.lt_succ_iff

theorem checkedPage_inRange {n : Byte} (h : n.toNat ≤ 7) (ops : List Micro) : checkedPage n ops = ops :=
  if_pos ((pageInRange_iff n).2 h)

theorem checkedPage_above {n : Byte} (h : 7 < n.toNat) (ops : List Micro) :
    checkedPage n ops = [.finish .badParameter] :=
  if_neg fun hin => absurd ((pageInRange_iff n).1 hin) (Nat.not_le.2 h)

/-- An accepted command whose one position is `Finish`. -/
theorem runCommand_finishAtOnce {s : State} (h : IdleFor 1 s) (w : CmdWord) (c : ResultCode) :
    runCommand w [.finish c] s = .next { finish c ((accepted w [.finish c] s).pop []) with gap := 0 } :=
  runCommand_finish h.1 h.2.1 h.2.2 (ctrlStep_cons (accepted_running h.1 w _) rfl)

/-- `Finish` writes the fields of `State.complete` and, of the outputs, only those the operation lists (R329, R338). -/
theorem finish_listed {c : ResultCode} {s : State} {outs : Outputs} (h : outputsOf s.opl = outs) :
    finish c s = { s.complete c with
      data := if outs.data then (finish c s).data else s.data
      rxdata := if outs.rxdata then (finish c s).rxdata else s.rxdata
      temp := if outs.temp then (finish c s).temp else s.temp
      volt := if outs.volt then (finish c s).volt else s.volt
      curr := if outs.curr then (finish c s).curr else s.curr
      cap := if outs.cap then (finish c s).cap else s.cap
      ready := if outs.ready then (finish c s).ready else s.ready } := by
  subst h
  rw [ite_eq_left_iff.2 fun h => (finish_keeps State.data (fun _ => rfl) scrambleOutputs_data (.inr h)).symm,
    ite_eq_left_iff.2 fun h => (finish_keeps State.rxdata (fun _ => rfl) scrambleOutputs_rxdata (.inr h)).symm,
    ite_eq_left_iff.2 fun h => (finish_keeps State.temp (fun _ => rfl) scrambleOutputs_temp (.inr h)).symm,
    ite_eq_left_iff.2 fun h => (finish_keeps State.volt (fun _ => rfl) scrambleOutputs_volt (.inr h)).symm,
    ite_eq_left_iff.2 fun h => (finish_keeps State.curr (fun _ => rfl) scrambleOutputs_curr (.inr h)).symm,
    ite_eq_left_iff.2 fun h => (finish_keeps State.cap (fun _ => rfl) scrambleOutputs_cap (.inr h)).symm,
    ite_eq_left_iff.2 fun h => (finish_keeps State.ready (fun _ => rfl) scrambleOutputs_ready (.inr h)).symm]
  exact finish_frame c s

/-- Settles O38: `Finish` is the one position, and READ_PAGE lists DATA where WRITE_PAGE lists nothing. -/
theorem pageAboveSevenIsRejected : Obligations.PageAboveSevenIsRejected := by
  intro n s hn hidle
  have hread : exec (.readPage n) s = runCommand (cmdWord 0x10 n) [.finish .badParameter] s := by
    rw [exec, execReadPage, checkedPage_above hn]
  have hwrite : exec (.writePage n) s = runCommand (cmdWord 0x11 n) [.finish .badParameter] s := by
    rw [exec, execWritePage, checkedPage_above hn]
  refine ⟨⟨_, hread.trans (runCommand_finishAtOnce hidle _ _), ?_⟩,
    ⟨_, hwrite.trans (runCommand_finishAtOnce hidle _ _), ?_⟩⟩
  · rw [finish_listed (outs := { data := true }) ((congrArg outputsOf (extract_op 0x10 n)).trans (by decide))]
    rfl
  · rw [finish_listed (outs := {}) ((congrArg outputsOf (extract_op 0x11 n)).trans (by decide))]
    rfl

/-! READ_PAGE and WRITE_PAGE when both resets find a device, for every LINE `l` (R206, R207). -/

section

variable {n : Byte} {s : State} {l : Line}

/-- READ_PAGE of a legal page (R201, R206). -/
theorem exec_readPage_completes (hn : n.toNat ≤ 7) (hidle : IdleFor 736 s) (hl : s.line = l)
    (hp : presenceLevelOf l s.samples s.draws s.dev = false)
    (hp2 : presenceLevelOf l (samplesAfter l s.samples) (s.draws + 1) (devAfterHandshake l s.dev 0xB8 n) = false) :
    ∃ t, exec (.readPage n) s = .next t
      ∧ t = { completed (cmdWord 0x10 n) .ok s t with
          present := true
          data := nextPage l (samplesAfter l (samplesAfter l s.samples)) (s.draws + 2) (devAtRead l s.dev n)
          samples := samplesAfterBytes 9 l (samplesAfter l (samplesAfter l s.samples))
          draws := s.draws + 74
          dev := devAfterBytes 9 l (devAtRead l s.dev n)
          trace := (frameReadPage n t.data).reverse ++ s.trace } := by
  subst hl
  have hrun := accepted_running hidle.1 (cmdWord 0x10 n) (readPageOps .deviceNotFound n ++ [.finish .ok])
  obtain ⟨v, sh, hsteps⟩ := run_readPage hrun rfl hp hp2
  rw [exec, execReadPage, checkedPage_inRange hn]
  exact ⟨_, runCommand_ok hidle hsteps hrun rfl, rfl⟩

/-- WRITE_PAGE of a legal page (R202, R207). -/
theorem exec_writePage_completes (hn : n.toNat ≤ 7) (hidle : IdleFor 520 s) (hl : s.line = l)
    (hp : presenceLevelOf l s.samples s.draws s.dev = false)
    (hp2 : presenceLevelOf l (samplesAfter l s.samples) (s.draws + 1) (devAtCopy l s.dev n s.data) = false) :
    ∃ t, exec (.writePage n) s = .next t
      ∧ t = { completed (cmdWord 0x11 n) .ok s t with
          present := true
          samples := samplesAfter l (samplesAfter l s.samples)
          draws := s.draws + 2
          dev := devAfterHandshake l (devAtCopy l s.dev n s.data) 0x48 n
          trace := (frameWritePage n s.data).reverse ++ s.trace } := by
  subst hl
  have hrun := accepted_running hidle.1 (cmdWord 0x11 n) (writePageOps .deviceNotFound n ++ [.finish .ok])
  rw [exec, execWritePage, checkedPage_inRange hn]
  exact ⟨_, runCommand_ok hidle (run_writePage hrun rfl hp hp2) hrun rfl, rfl⟩

end

/-! The free LINE. -/

/-- The presence level of a second reset on the free LINE is the next level but one, whatever the device (R163). -/
theorem secondPresence_free (s : State) (d : RefDevice) :
    presenceLevelOf .free (samplesAfter .free s.samples) (s.draws + 1) d = s.level 1 := by
  rw [presenceLevelOf_free, samplesAfter_free, levelOf_drop, level_eq]

/-- Settles O39: the completion for every LINE, on the free one, where the page is made of the levels from the third on. -/
theorem readPageCompletes : Obligations.ReadPageCompletes := by
  intro n s hn hidle hl h0 h1
  obtain ⟨t, hexec, ht⟩ := exec_readPage_completes hn hidle hl ((presenceLevelOf_free _ _ _).trans h0)
    ((secondPresence_free s _).trans h1)
  have hdata : t.data = nextPage .free (s.samples.drop 2) (s.draws + 2) s.dev := by
    rw [ht]
    simp only [samplesAfter_free, List.drop_drop, devAtRead_free]
  refine ⟨t, hexec, ?_, hdata ▸ pageSampled_nextPage s 2 s.dev⟩
  simp only [samplesAfter_free, devAtRead_free, samplesAfterBytes_free, devAfterBytes_free, List.drop_drop, ← hdata] at ht
  exact ht

/-- Settles O40: the completion for every LINE, on the free one. -/
theorem writePageCompletes : Obligations.WritePageCompletes := by
  intro n s hn hidle hl h0 h1
  obtain ⟨t, hexec, ht⟩ := exec_writePage_completes hn hidle hl ((presenceLevelOf_free _ _ _).trans h0)
    ((secondPresence_free s _).trans h1)
  refine ⟨t, hexec, ?_⟩
  simp only [samplesAfter_free, devAtCopy_free, devAfterHandshake_free, List.drop_drop] at ht
  exact ht

/-! The reference device (R208). -/

/-- A present reference device answers every presence sample (R111). -/
theorem presenceLevelOf_reference {d : RefDevice} (h : d.present = true) (q : List Bool) (n : Nat) :
    presenceLevelOf .reference q n d = false := by
  rw [presenceLevelOf, h, Bool.not_true]

/-- The CMD write of a host command runs it in the state that has taken the input and answered (R148). -/
theorem step_hostCommand {s : State} {v : Word} {w : CmdWord} {i : Instr} {g : Nat} {rest : List (Input × Nat)}
    (hi : s.inputs = (writeAccess 0 v, g) :: rest) (hv : v.setWidth 16 = w) (he : encode i = .cmd16 w) :
    step s = exec i ((s.takeInput rest g).respond .done) := by
  rw [step_command hi, hv, commandWrite_instr (decode_eq_instr_iff.2 he)]

/-- Settles O60: the page write leaves the bytes sent in the device's memory, and the page read takes them from there. -/
theorem referenceDeviceRoundTrip : Obligations.ReferenceDeviceRoundTrip := by
  intro n s v w g h rest hn hr hb hl hp hmem hsp hbusy hv hw hg hh hi
  obtain ⟨hpc, hpw, hwf, hbytes⟩ := writePage_reference hp ⟨hmem, hsp⟩ hn s.data
  obtain ⟨hpr, hpage, hkept⟩ := readPage_reference hpw hwf hn s.data hbytes hbusy
  obtain ⟨t, hwrite, ht⟩ := exec_writePage_completes (s := (s.takeInput ((writeAccess 0 w, h) :: rest) g).respond .done) hn
    ⟨hr, hb, hg⟩ hl (presenceLevelOf_reference hp _ _) (presenceLevelOf_reference hpc _ _)
  have htdev : t.dev = devAfterHandshake .reference (devAtCopy .reference s.dev n s.data) 0x48 n := by rw [ht]; rfl
  have htin : t.inputs = (writeAccess 0 w, h) :: rest := by rw [ht]; rfl
  obtain ⟨u, hread, hu⟩ := exec_readPage_completes (s := (t.takeInput rest h).respond .done) hn
    ⟨by rw [ht]; exact hr, by rw [ht]; rfl, hh⟩ (by rw [ht]; exact hl)
    (presenceLevelOf_reference (by rw [← htdev] at hpw; exact hpw) _ _)
    (presenceLevelOf_reference (by rw [← htdev] at hpr; exact hpr) _ _)
  rw [← htdev] at hpage hkept hbytes
  have hudev : u.dev.mem = t.dev.mem := by rw [hu]; exact hkept
  refine ⟨t, u, (step_hostCommand hi hv rfl).trans hwrite, (step_hostCommand htin hw rfl).trans hread, ?_, ?_, ?_, ?_, ?_,
    ?_, fun k hk => ?_⟩
  · rw [ht]; rfl
  · rw [ht]; rfl
  · rw [hu]; rfl
  · rw [hu]; rfl
  · rw [hu]; exact hpage _ _
  · rw [hu]; rfl
  · rw [hudev]; exact hbytes k hk

end Sys2Proof.Machine
end

section
/-! PROOFS. A later reset that finds no device (40_transport.md R170, 41_register_access.md R203): what a page operation has
sent on the free LINE up to that reset, procedure by procedure, and how it ends there. -/

namespace Sys2Proof.Machine

/-! What an operation has sent so far. -/

/-- From `s` to `u` the running operation sent the frame `f` and drew `j` levels of the free LINE, and `rest` remains in
SEQ: besides the trace and the samples only BUS_STATE, the line drive, PRESENT, DATA, the procedure state of R50 and the
model's `epoch` may have changed. -/
def Sent (s u : State) (rest : List Micro) (j : Nat) (f : List Event) : Prop :=
  u = { s with
    busState := u.busState
    lineDrive := u.lineDrive
    present := u.present
    data := u.data
    slot := u.slot
    shift := u.shift
    byteCnt := u.byteCnt
    vbit := u.vbit
    epoch := u.epoch
    seq := rest
    samples := s.samples.drop j
    draws := s.draws + j
    trace := f.reverse ++ s.trace }

section

variable {s u v : State} {rest rest' : List Micro} {j j' : Nat} {f f' : List Event}

theorem Sent.seq (h : Sent s u rest j f) : u.seq = rest := by rw [h]

theorem Sent.line (h : Sent s u rest j f) : u.line = s.line := by rw [h]

theorem Sent.running (h : Sent s u rest j f) (hr : s.running = true) : u.running = true := by
  rw [h]
  exact hr

/-- The levels drawn are spent (R163). -/
theorem Sent.level (h : Sent s u rest j f) (k : Nat) : u.level k = s.level (j + k) := by
  rw [h, level_eq, level_eq]
  exact levelOf_drop _ _ _ _

/-- A page received from `u` on is one of the levels of `s` (R201). -/
theorem Sent.pageSampled (h : Sent s u rest j f) {i : Nat} {d : Page} (hd : PageSampled u i d) :
    PageSampled s (j + i) d := by
  intro k hk b hb
  rw [hd k hk b hb, h.level]
  congr 1
  omega

theorem Sent.trans (h : Sent s u rest j f) (h' : Sent u v rest' j' f') : Sent s v rest' (j + j') (f ++ f') := by
  unfold Sent
  rw [h', h]
  simp only [List.drop_drop, List.reverse_append, List.append_assoc, Nat.add_assoc]

end

/-! The procedures, each when its resets find a device. -/

section

variable {s : State} {rest : List Micro} {code : ResultCode} {n : Byte}

/-- A handshake (R136). -/
theorem sent_handshake {c : Byte} (hr : s.running = true) (hs : s.seq = handshakeOps code c n ++ rest)
    (hl : s.line = .free) (h0 : s.level 0 = false) : Sent s (ctrlSteps 106 s) rest 1 (frameHandshake c n) := by
  rw [run_handshake hr hs ((presenceLevel_free hl).trans h0), hl, devAfterHandshake_free, samplesAfter_free, ← hl]
  rfl

/-- `ReadPage(n)` (R201), with the page it leaves in DATA. -/
theorem sent_readPage (hr : s.running = true) (hs : s.seq = readPageOps code n ++ rest) (hl : s.line = .free)
    (h0 : s.level 0 = false) (h1 : s.level 1 = false) :
    Sent s (ctrlSteps 735 s) rest 74 (frameReadPage n (ctrlSteps 735 s).data)
      ∧ PageSampled s 2 (ctrlSteps 735 s).data := by
  obtain ⟨v, sh, hrun⟩ := run_readPage hr hs ((presenceLevel_free hl).trans h0)
    (by rw [hl, secondPresence_free, h1])
  simp only [hl, samplesAfter_free, devAtRead_free, samplesAfterBytes_free, devAfterBytes_free, List.drop_drop] at hrun
  rw [hrun]
  refine ⟨?_, pageSampled_nextPage s 2 s.dev⟩
  rw [Sent, ← hl]

/-- The first handshake of `WritePage(n)` with the nine bytes of DATA (R202), which stay there. -/
theorem sent_writeData (hr : s.running = true)
    (hs : s.seq = handshakeOps code 0x4E n ++ .firstByte :: .loadData :: .writeSlot :: .nextData :: rest)
    (hl : s.line = .free) (h0 : s.level 0 = false) :
    Sent s (ctrlSteps 413 s) rest 1 (frameHandshake 0x4E n ++ s.data.toList.flatMap frameWriteByte)
      ∧ (ctrlSteps 413 s).data = s.data := by
  obtain ⟨sh, hrun⟩ := run_writeData hr hs ((presenceLevel_free hl).trans h0)
  simp only [hl, samplesAfter_free, devAtCopy_free] at hrun
  rw [hrun]
  refine ⟨?_, rfl⟩
  rw [Sent, ← hl]

/-- `StartConversion(cmd)` (R291). -/
theorem sent_startConversion {c : Byte} (hr : s.running = true) (hs : s.seq = startConversionOps c ++ rest)
    (hl : s.line = .free) (h0 : s.level 0 = false) : Sent s (ctrlSteps 73 s) rest 1 (frameStart c) := by
  rw [run_startConversion hr hs ((presenceLevel_free hl).trans h0), hl, devAfterReset_free, devAfterByte_free,
    devAfterByte_free, samplesAfter_free, ← hl]
  rfl

end

/-! The loop of a blocking read (R298). -/

/-- What SEQ holds before a poll. -/
def pollOps (k : BusyBit) (rest : List Micro) : List Micro := readPageOps .deviceNotFound 0 ++ .pollReady k :: rest

section

variable {s : State} {k : BusyBit} {rest : List Micro}

/-- The test of a busy image goes back to the start of the loop. -/
theorem sent_pollAgain (hr : s.running = true) (hs : s.seq = .pollReady k :: rest)
    (hbusy : (dataByte s.data 0).getLsbD (busyBitIndex k) = true) : Sent s (ctrlSteps 1 s) (pollOps k rest) 0 [] := by
  have hready : ¬readyOfByte k (dataByte s.data 0) = true := by simp [readyOfByte, hbusy]
  rw [show ctrlSteps 1 s = micro (.pollReady k) (s.pop rest) from ctrlStep_cons hr hs, micro, pollReady_eq,
    State.pop_data, if_neg hready, if_neg hready]
  rfl

theorem busyBitIndex_lt (k : BusyBit) : busyBitIndex k < 8 := by cases k <;> decide

/-- One busy poll: the page read, and its test. -/
theorem sent_busyPoll (hr : s.running = true) (hs : s.seq = pollOps k rest) (hl : s.line = .free)
    (h0 : s.level 0 = false) (h1 : s.level 1 = false) (hbusy : s.level (2 + busyBitIndex k) = true) :
    ∃ d, PageSampled s 2 d ∧ Sent s (ctrlSteps 736 s) (pollOps k rest) 74 (frameReadPage 0 d) := by
  obtain ⟨hread, hpage⟩ := sent_readPage hr hs hl h0 h1
  have hbit := (hpage 0 (by decide) _ (busyBitIndex_lt k)).trans hbusy
  have htest := sent_pollAgain (hread.running hr) hread.seq hbit
  refine ⟨_, hpage, ?_⟩
  rw [ctrlSteps_add 735 1]
  simpa only [List.append_nil, Nat.add_zero] using hread.trans htest

/-- Any number of busy polls. -/
theorem sent_busyPolls (p : Nat) (hr : s.running = true) (hs : s.seq = pollOps k rest) (hl : s.line = .free)
    (hlev : ∀ j, j < p → s.level (74 * j) = false ∧ s.level (74 * j + 1) = false
      ∧ s.level (74 * j + 2 + busyBitIndex k) = true) :
    ∃ polls : List Page, polls.length = p ∧ (∀ j (h : j < polls.length), PageSampled s (74 * j + 2) polls[j])
      ∧ Sent s (ctrlSteps (736 * p) s) (pollOps k rest) (74 * p) (polls.flatMap (frameReadPage 0)) := by
  induction p generalizing s with
  | zero =>
    refine ⟨[], rfl, nofun, ?_⟩
    rw [← hs]
    rfl
  | succ p ih =>
    obtain ⟨h0, h1, hbusy⟩ := hlev 0 (Nat.succ_pos p)
    obtain ⟨d, hd, hfirst⟩ := sent_busyPoll hr hs hl h0 h1 hbusy
    obtain ⟨polls, hlen, hpolls, hmore⟩ := ih (hfirst.running hr) hfirst.seq (hfirst.line.trans hl) (fun j hj => by
      have hnext := hlev (j + 1) (Nat.succ_lt_succ hj)
      rw [show 74 * (j + 1) = 74 + 74 * j by omega] at hnext
      simpa only [hfirst.level, Nat.add_assoc] using hnext)
    refine ⟨d :: polls, by rw [List.length_cons, hlen], fun j hj => ?_, ?_⟩
    · cases j with
      | zero => exact hd
      | succ j =>
        have := hfirst.pageSampled (hpolls j (Nat.lt_of_succ_lt_succ hj))
        rwa [← Nat.add_assoc, show 74 + 74 * j = 74 * (j + 1) by omega] at this
    · rw [show 736 * (p + 1) = 736 + 736 * p by omega, ctrlSteps_add, show 74 * (p + 1) = 74 + 74 * p by omega]
      exact hfirst.trans hmore

end

/-! The end of the operation at a later reset. -/

/-- A reset of the free LINE that finds no device: only `Finish` follows it (R170). -/
theorem sent_reset_none {s : State} {code : ResultCode} {rest : List Micro} (hr : s.running = true)
    (hs : s.seq = resetOps (some code) ++ rest) (hl : s.line = .free) (h0 : s.level 0 = true) :
    ∃ u, ctrlSteps 8 s = finish code u ∧ Sent s u [] 1 (frameReset true) ∧ u.present = false ∧ u.data = s.data := by
  refine ⟨_, run_reset_none hr hs ((presenceLevel_free hl).trans h0), ?_, rfl, rfl⟩
  rw [Sent, hl, samplesAfter_free, devAfterReset_free, ← hl]

/-- A failed completion of an accepted command that has sent the frame `f`, whose last reset found no device (R170, R338). -/
theorem finish_sent {s u : State} {op arg : Byte} {code : ResultCode} {outs : Outputs} {ops : List Micro} {j : Nat}
    {f : List Event} (h : Sent (accepted (cmdWord op arg) ops s) u [] j f) (hp : u.present = false)
    (houts : outputsOf op = outs) (hdata : outs.data = true ∨ u.data = s.data) :
    { finish code u with gap := 0 } =
      { aborted (cmdWord op arg) code outs s { finish code u with gap := 0 } with
        samples := s.samples.drop j
        draws := s.draws + j
        trace := f.reverse ++ s.trace } := by
  have hopl : u.opl = op := by
    rw [h]
    exact extract_op op arg
  have hkeep : (if outs.data then (finish code u).data else u.data) = if outs.data then (finish code u).data else s.data :=
    ite_congr rfl (fun _ => rfl) hdata.resolve_left
  conv_lhs => rw [finish_listed ((congrArg outputsOf hopl).trans houts), hkeep]
  rw [h, hp]
  cases code <;> rfl

/-- An operation that has sent the frame `f` when a reset finds no device ends there (R170, R203): that reset is all that
follows on the line. -/
theorem runCommand_aborted {s : State} {op arg : Byte} {code : ResultCode} {outs : Outputs} {ops rest : List Micro}
    {n j : Nat} {f : List Event} (hidle : IdleFor (n + 8) s) (hl : s.line = .free) (houts : outputsOf op = outs)
    (hsent : Sent (accepted (cmdWord op arg) ops s) (ctrlSteps n (accepted (cmdWord op arg) ops s))
      (resetOps (some code) ++ rest) j f)
    (hdata : outs.data = true ∨ (ctrlSteps n (accepted (cmdWord op arg) ops s)).data = s.data)
    (hlev : s.level j = true) :
    ∃ t, runCommand (cmdWord op arg) ops s = .next t
      ∧ t = { aborted (cmdWord op arg) code outs s t with
          samples := s.samples.drop (j + 1)
          draws := s.draws + (j + 1)
          trace := (f ++ frameReset true).reverse ++ s.trace } := by
  obtain ⟨u, hend, hreset, hp, hkept⟩ := sent_reset_none (hsent.running (accepted_running hidle.1 _ _)) hsent.seq
    (hsent.line.trans hl) ((hsent.level 0).trans hlev)
  rw [← ctrlSteps_add] at hend
  exact ⟨_, runCommand_finish hidle.1 hidle.2.1 hidle.2.2 hend,
    finish_sent (hsent.trans hreset) hp houts (hdata.imp_right hkept.trans)⟩

/-! Where the resets stand in the procedures. -/

section

variable (code : ResultCode) (n : Byte) (rest : List Micro)

theorem readPageOps_reset : ∃ rest', readPageOps code n ++ rest = resetOps (some code) ++ rest' := ⟨_, rfl⟩

theorem readPageOps_secondReset :
    ∃ rest', readPageOps code n ++ rest = handshakeOps code 0xB8 n ++ (resetOps (some code) ++ rest') := ⟨_, rfl⟩

theorem writePageOps_secondReset :
    ∃ rest', writePageOps code n ++ rest = handshakeOps code 0x4E n
      ++ .firstByte :: .loadData :: .writeSlot :: .nextData :: (resetOps (some code) ++ rest') := ⟨_, rfl⟩

end

/-- The operations that read one page first, each with its page and its outputs (R206, R243, R244, R270, R295). -/
theorem pageRead_runCommand {arg : Byte} {i : Instr} {op n : Byte} {outs : Outputs}
    (hmem : (i, op, n, outs) ∈ [(Instr.readPage arg, (0x10 : Byte), arg, ({ data := true } : Outputs)),
      (.hasDataV arg, 0x22, 0, { data := true, ready := true }), (.hasDataT arg, 0x23, 0, { data := true, ready := true }),
      (.getCurrent arg, 0x26, 0, { data := true, curr := true }), (.getCapacity arg, 0x27, 1, { data := true, cap := true }),
      (.enableIAD arg, 0x30, 0, { data := true }), (.disableIAD arg, 0x31, 0, { data := true }),
      (.enableCA arg, 0x32, 0, { data := true }), (.disableCA arg, 0x33, 0, { data := true }),
      (.selectInput arg, 0x34, 0, { data := true })])
    (hn : n.toNat ≤ 7) (s : State) :
    outputsOf op = outs ∧ outs.data = true
      ∧ ∃ rest, exec i s = runCommand (cmdWord op arg) (readPageOps .deviceNotFound n ++ rest) s := by
  simp only [List.mem_cons, List.not_mem_nil, or_false, Prod.mk.injEq] at hmem
  obtain ⟨rfl, rfl, rfl, rfl⟩ | hmem := hmem
  · exact ⟨by decide, rfl, _, by rw [exec, execReadPage, checkedPage_inRange hn]⟩
  · obtain ⟨rfl, rfl, rfl, rfl⟩ | ⟨rfl, rfl, rfl, rfl⟩ | ⟨rfl, rfl, rfl, rfl⟩ | ⟨rfl, rfl, rfl, rfl⟩ | ⟨rfl, rfl, rfl, rfl⟩
      | ⟨rfl, rfl, rfl, rfl⟩ | ⟨rfl, rfl, rfl, rfl⟩ | ⟨rfl, rfl, rfl, rfl⟩ | ⟨rfl, rfl, rfl, rfl⟩ := hmem
    all_goals exact ⟨by decide, rfl, _, rfl⟩

/-- The two blocking reads: the start, and the loop of polls of their busy bit (R298 to R300). -/
theorem blockingRead_runCommand {arg : Byte} {i : Instr} {op command : Byte} {bit : Nat} {outs : Outputs}
    (hmem : (i, op, command, bit, outs) ∈ [(Instr.readVoltage arg, (0x24 : Byte), (0xB4 : Byte), 6,
        ({ data := true, volt := true, ready := true } : Outputs)),
      (.readTemperature arg, 0x25, 0x44, 4, { data := true, temp := true, ready := true })]) (s : State) :
    outputsOf op = outs ∧ outs.data = true
      ∧ ∃ k rest, busyBitIndex k = bit
        ∧ exec i s = runCommand (cmdWord op arg) (startConversionOps command ++ pollOps k rest) s := by
  simp only [List.mem_cons, List.not_mem_nil, or_false, Prod.mk.injEq] at hmem
  obtain ⟨rfl, rfl, rfl, rfl, rfl⟩ | ⟨rfl, rfl, rfl, rfl, rfl⟩ := hmem
  · exact ⟨by decide, rfl, .voltage, _, rfl, rfl⟩
  · exact ⟨by decide, rfl, .temperature, _, rfl, rfl⟩

/-- The start of a blocking read and `p` busy polls (R298). -/
theorem sent_startAndPolls {s : State} {k : BusyBit} {c : Byte} {rest : List Micro} (p : Nat) (hr : s.running = true)
    (hs : s.seq = startConversionOps c ++ pollOps k rest) (hl : s.line = .free) (h0 : s.level 0 = false)
    (hlev : ∀ j, j < p → s.level (74 * j + 1) = false ∧ s.level (74 * j + 2) = false
      ∧ s.level (74 * j + 3 + busyBitIndex k) = true) :
    ∃ polls : List Page, polls.length = p ∧ (∀ j (h : j < polls.length), PageSampled s (74 * j + 3) polls[j])
      ∧ Sent s (ctrlSteps (73 + 736 * p) s) (pollOps k rest) (74 * p + 1)
        (frameStart c ++ polls.flatMap (frameReadPage 0)) := by
  have hstart := sent_startConversion hr hs hl h0
  have hnext : ∀ m, (ctrlSteps 73 s).level m = s.level (m + 1) := fun m => by rw [hstart.level, Nat.add_comm]
  obtain ⟨polls, hlen, hpolls, hloop⟩ := sent_busyPolls p (hstart.running hr) hstart.seq (hstart.line.trans hl)
    (fun j hj => by
      obtain ⟨h1, h2, hbit⟩ := hlev j hj
      refine ⟨(hnext _).trans h1, (hnext _).trans h2, (hnext _).trans ?_⟩
      rwa [Nat.add_right_comm])
  refine ⟨polls, hlen, fun j hj => ?_, ?_⟩
  · rw [show 74 * j + 3 = 1 + (74 * j + 2) by omega]
    exact hstart.pageSampled (hpolls j hj)
  · rw [ctrlSteps_add, Nat.add_comm (74 * p)]
    exact hstart.trans hloop

/-! The three kinds of page transaction. -/

/-- The second reset of the page read that begins an operation (R203, R271). -/
theorem pageRead_secondReset_aborts {arg : Byte} {i : Instr} {op n : Byte} {outs : Outputs} {rest : List Micro} {s : State}
    (hexec : exec i s = runCommand (cmdWord op arg) (readPageOps .deviceNotFound n ++ rest) s)
    (houts : outputsOf op = outs) (hdata : outs.data = true) (hidle : IdleFor 114 s) (hl : s.line = .free)
    (h0 : s.level 0 = false) (h1 : s.level 1 = true) :
    ∃ t, exec i s = .next t
      ∧ t = { aborted (op ++ arg) .deviceNotFound outs s t with
          samples := s.samples.drop 2
          draws := s.draws + 2
          trace := (frameHandshake 0xB8 n ++ frameReset true).reverse ++ s.trace } := by
  obtain ⟨rest', hops⟩ := readPageOps_secondReset .deviceNotFound n rest
  rw [hexec, hops]
  exact runCommand_aborted (n := 106) hidle hl houts (sent_handshake (accepted_running hidle.1 _ _) rfl hl h0)
    (.inl hdata) h1

/-- The second reset of WRITE_PAGE, which lists no output (R203, R207). -/
theorem writePage_secondReset_aborts {n : Byte} {s : State} (hn : n.toNat ≤ 7) (hidle : IdleFor 421 s)
    (hl : s.line = .free) (h0 : s.level 0 = false) (h1 : s.level 1 = true) :
    ∃ t, exec (.writePage n) s = .next t
      ∧ t = { aborted (0x11#8 ++ n) .deviceNotFound {} s t with
          samples := s.samples.drop 2
          draws := s.draws + 2
          trace := (frameHandshake 0x4E n ++ s.data.toList.flatMap frameWriteByte ++ frameReset true).reverse
            ++ s.trace } := by
  obtain ⟨rest', hops⟩ := writePageOps_secondReset .deviceNotFound n [.finish .ok]
  obtain ⟨hsent, hkept⟩ := sent_writeData (s := accepted (cmdWord 0x11 n) _ s) (accepted_running hidle.1 _ _) rfl hl h0
  rw [exec, execWritePage, checkedPage_inRange hn, hops]
  exact runCommand_aborted (n := 413) hidle hl (by decide) hsent (.inr hkept) h1

section

variable {arg : Byte} {i : Instr} {op command : Byte} {outs : Outputs} {k : BusyBit} {rest : List Micro} {p : Nat}
  {s : State}

/-- The first reset of the poll after `p` busy polls (R301). -/
theorem poll_firstReset_aborts
    (hexec : exec i s = runCommand (cmdWord op arg) (startConversionOps command ++ pollOps k rest) s)
    (houts : outputsOf op = outs) (hdata : outs.data = true) (hidle : IdleFor (81 + 736 * p) s) (hl : s.line = .free)
    (h0 : s.level 0 = false)
    (hlev : ∀ j, j < p → s.level (74 * j + 1) = false ∧ s.level (74 * j + 2) = false
      ∧ s.level (74 * j + 3 + busyBitIndex k) = true)
    (h1 : s.level (74 * p + 1) = true) :
    ∃ (t : State) (polls : List Page), exec i s = .next t ∧ polls.length = p
      ∧ (∀ j (h : j < polls.length), PageSampled s (74 * j + 3) polls[j])
      ∧ t = { aborted (op ++ arg) .deviceNotFound outs s t with
          samples := s.samples.drop (74 * p + 2)
          draws := s.draws + (74 * p + 2)
          trace := (frameStart command ++ polls.flatMap (frameReadPage 0) ++ frameReset true).reverse ++ s.trace } := by
  have hrun := accepted_running hidle.1 (cmdWord op arg) (startConversionOps command ++ pollOps k rest)
  obtain ⟨polls, hlen, hpolls, hsent⟩ := sent_startAndPolls p hrun rfl hl h0 hlev
  obtain ⟨rest', hops⟩ := readPageOps_reset .deviceNotFound 0 (.pollReady k :: rest)
  obtain ⟨t, hend, ht⟩ := runCommand_aborted (n := 73 + 736 * p) (rest := rest')
    ((show 81 + 736 * p = 73 + 736 * p + 8 by omega) ▸ hidle) hl houts (by rw [← hops]; exact hsent) (.inl hdata) h1
  exact ⟨t, polls, hexec.trans hend, hlen, hpolls, ht⟩

/-- The second reset of the poll after `p` busy polls, when its recall has gone out (R301). -/
theorem poll_secondReset_aborts
    (hexec : exec i s = runCommand (cmdWord op arg) (startConversionOps command ++ pollOps k rest) s)
    (houts : outputsOf op = outs) (hdata : outs.data = true) (hidle : IdleFor (187 + 736 * p) s) (hl : s.line = .free)
    (h0 : s.level 0 = false)
    (hlev : ∀ j, j < p → s.level (74 * j + 1) = false ∧ s.level (74 * j + 2) = false
      ∧ s.level (74 * j + 3 + busyBitIndex k) = true)
    (h1 : s.level (74 * p + 1) = false) (h2 : s.level (74 * p + 2) = true) :
    ∃ (t : State) (polls : List Page), exec i s = .next t ∧ polls.length = p
      ∧ (∀ j (h : j < polls.length), PageSampled s (74 * j + 3) polls[j])
      ∧ t = { aborted (op ++ arg) .deviceNotFound outs s t with
          samples := s.samples.drop (74 * p + 3)
          draws := s.draws + (74 * p + 3)
          trace := (frameStart command ++ polls.flatMap (frameReadPage 0) ++ frameHandshake 0xB8 0
            ++ frameReset true).reverse ++ s.trace } := by
  have hrun := accepted_running hidle.1 (cmdWord op arg) (startConversionOps command ++ pollOps k rest)
  obtain ⟨polls, hlen, hpolls, hsent⟩ := sent_startAndPolls p hrun rfl hl h0 hlev
  obtain ⟨rest', hops⟩ := readPageOps_secondReset .deviceNotFound 0 (.pollReady k :: rest)
  have hrecall := sent_handshake (hsent.running hrun) (hsent.seq.trans hops) (hsent.line.trans hl)
    ((hsent.level 0).trans h1)
  rw [← ctrlSteps_add] at hrecall
  obtain ⟨t, hend, ht⟩ := runCommand_aborted (n := 73 + 736 * p + 106)
    ((show 187 + 736 * p = 73 + 736 * p + 106 + 8 by omega) ▸ hidle) hl houts (hsent.trans hrecall) (.inl hdata) h2
  exact ⟨t, polls, hexec.trans hend, hlen, hpolls, ht⟩

end

/-- Settles O42: each operation begins with the positions of one of the three kinds of transaction. -/
theorem secondResetFailureAbortsPage : Obligations.SecondResetFailureAbortsPage := by
  refine ⟨?_, fun n s => writePage_secondReset_aborts, ?_⟩
  · intro arg i op n outs s hmem hn
    obtain ⟨houts, hdata, rest, hexec⟩ := pageRead_runCommand hmem hn s
    exact pageRead_secondReset_aborts hexec houts hdata
  · intro arg i op command bit outs p s hmem hl h0 hlev
    obtain ⟨houts, hdata, k, rest, rfl, hexec⟩ := blockingRead_runCommand hmem s
    exact ⟨fun hidle => poll_firstReset_aborts hexec houts hdata hidle hl h0 hlev,
      fun hidle => poll_secondReset_aborts hexec houts hdata hidle hl h0 hlev⟩

end Sys2Proof.Machine
end

section
/-! PROOFS. The measurement decoder (42_decoder.md): the counts as arithmetic on the bytes, the ranges that fit the
registers (R245), and the operations that decode the page buffer or a page they have just read. -/

namespace Sys2Proof.Machine

/-! The counts as arithmetic on the bytes (R230 to R234). -/

theorem toInt_byte (b : Byte) : b.toInt = if b.toNat < 128 then (b.toNat : Int) else b.toNat - 256 := by
  rw [BitVec.toInt_eq_toNat_cond]
  split_ifs <;> omega

theorem getLsbD_seven_iff (b : Byte) : b.getLsbD 7 = true ↔ ¬b.toNat < 128 := by
  rw [show b.getLsbD 7 = b.msb from (BitVec.msb_eq_getLsbD_last b).symm, BitVec.msb_eq_decide, decide_eq_true_iff]
  exact Nat.not_lt.symm

/-- The sign-magnitude mix of R230: the degrees are signed, and the fraction takes the sign of byte 2. -/
theorem decodeTemperature_eq (b1 b2 : Byte) :
    decodeTemperature b1 b2 =
      if b2.toNat < 128 then 32 * (b2.toNat : Int) + (b1.toNat / 8 : Nat)
      else 32 * (b2.toNat - 256 : Int) - (b1.toNat / 8 : Nat) := by
  have hfrac : (b1 >>> 3).toNat = b1.toNat / 8 := by rw [BitVec.toNat_ushiftRight, Nat.shiftRight_eq_div_pow]
  by_cases h : b2.toNat < 128
  · have hsign : ¬b2.getLsbD 7 = true := fun hb => (getLsbD_seven_iff b2).1 hb h
    simp only [decodeTemperature, toInt_byte, hfrac, if_pos h, if_neg hsign]
  · have hsign : b2.getLsbD 7 = true := (getLsbD_seven_iff b2).2 h
    simp only [decodeTemperature, toInt_byte, hfrac, if_neg h, if_pos hsign]

/-- Bits 1:0 of one byte above another byte. -/
theorem decodeVoltage_eq (b3 b4 : Byte) : decodeVoltage b3 b4 = 256 * (b4.toNat % 4) + b3.toNat := by
  have hlow : (b4 &&& 0x03).toNat = b4.toNat % 4 := (BitVec.toNat_and ..).trans (Nat.and_two_pow_sub_one_eq_mod _ 2)
  rw [decodeVoltage, hlow, ← Nat.shiftLeft_add_eq_or_of_lt b3.isLt, Nat.shiftLeft_eq, Nat.mul_comm]

/-- Byte 6 has a sign bit set exactly when it is more than two bits long (R234). -/
theorem and_signBits_eq_zero_iff : ∀ b : Byte, b &&& 0xFC = 0 ↔ b.toNat < 4 := by decide

/-- The magnitude of R234 has the form of the voltage count, and any bit of byte 6 above it is a sign. -/
theorem decodeCurrent_eq (b5 b6 : Byte) :
    decodeCurrent b5 b6 = (if b6.toNat < 4 then 1 else -1) * ((256 * (b6.toNat % 4) + b5.toNat : Nat) : Int) := by
  have hmag : ((b6 &&& 0x03).toNat <<< 8) ||| b5.toNat = 256 * (b6.toNat % 4) + b5.toNat := decodeVoltage_eq b5 b6
  by_cases h : b6.toNat < 4
  · have hsign : ¬b6 &&& 0xFC ≠ 0 := not_not.2 ((and_signBits_eq_zero_iff b6).2 h)
    simp only [decodeCurrent, hmag, if_neg hsign, if_pos h, one_mul]
  · have hsign : b6 &&& 0xFC ≠ 0 := mt (and_signBits_eq_zero_iff b6).1 h
    simp only [decodeCurrent, hmag, if_pos hsign, if_neg h, neg_mul, one_mul]

/-! The ranges of the counts, and the registers that hold them (R43 to R46, R245). -/

theorem decodeTemperature_bounds (b1 b2 : Byte) : -4127 ≤ decodeTemperature b1 b2 ∧ decodeTemperature b1 b2 ≤ 4095 := by
  have := b1.isLt
  have := b2.isLt
  rw [decodeTemperature_eq]
  split_ifs <;> omega

theorem decodeVoltage_le (b3 b4 : Byte) : decodeVoltage b3 b4 ≤ 1023 := by
  have := b3.isLt
  rw [decodeVoltage_eq]
  omega

theorem decodeCurrent_bounds (b5 b6 : Byte) : -1023 ≤ decodeCurrent b5 b6 ∧ decodeCurrent b5 b6 ≤ 1023 := by
  have := b5.isLt
  rw [decodeCurrent_eq]
  split_ifs <;> omega

/-- A signed count in the range of `n` bits is held by its register without truncation. -/
theorem toInt_sext32_ofInt {n : Nat} (hpos : 0 < n) (hn : n ≤ 32) {c : Int} (hlo : -2 ^ (n - 1) ≤ c)
    (hhi : c < 2 ^ (n - 1)) : (sext32 (BitVec.ofInt n c)).toInt = c := by
  rw [sext32, BitVec.toInt_signExtend_of_le hn, BitVec.toInt_ofInt_eq_self hpos hlo hhi]

theorem toInt_tempRegister_decodeTemperature (b1 b2 : Byte) :
    (tempRegister (decodeTemperature b1 b2)).toInt = decodeTemperature b1 b2 := by
  obtain ⟨hlo, hhi⟩ := decodeTemperature_bounds b1 b2
  exact toInt_sext32_ofInt (by decide) (by decide) (by omega) (by omega)

theorem toNat_voltRegister_decodeVoltage (b3 b4 : Byte) :
    (voltRegister (decodeVoltage b3 b4)).toNat = decodeVoltage b3 b4 :=
  Nat.mod_eq_of_lt (Nat.lt_succ_of_le (decodeVoltage_le b3 b4))

theorem toInt_currRegister_decodeCurrent (b5 b6 : Byte) :
    (currRegister (decodeCurrent b5 b6)).toInt = decodeCurrent b5 b6 := by
  obtain ⟨hlo, hhi⟩ := decodeCurrent_bounds b5 b6
  exact toInt_sext32_ofInt (by decide) (by decide) (by omega) (by omega)

theorem capRegister_decodeCapacity (b : Byte) : capRegister (decodeCapacity b) = b := by
  rw [capRegister, decodeCapacity, BitVec.ofNat_toNat, BitVec.setWidth_eq]

/-- Settles O54: the range of each count lies within its register. -/
theorem countsFitTheirRegisters : Obligations.CountsFitTheirRegisters := by
  intro a b
  obtain ⟨htlo, hthi⟩ := decodeTemperature_bounds a b
  obtain ⟨hclo, hchi⟩ := decodeCurrent_bounds a b
  exact ⟨⟨htlo, hthi, toInt_tempRegister_decodeTemperature a b⟩,
    ⟨decodeVoltage_le a b, toNat_voltRegister_decodeVoltage a b⟩,
    ⟨hclo, hchi, toInt_currRegister_decodeCurrent a b⟩,
    ⟨Nat.le_of_lt_succ a.isLt, congrArg BitVec.toNat (capRegister_decodeCapacity a)⟩⟩

/-! Decoding the page buffer (R239 to R242). -/

/-- The position `m` neither ends the operation nor changes what remains in SEQ, as the register updates do. -/
def KeepsOperation (m : Micro) : Prop := ∀ s, (micro m s).running = s.running ∧ (micro m s).seq = s.seq

theorem decodeTemp_keepsOperation : KeepsOperation .decodeTemp := fun _ => ⟨rfl, rfl⟩

theorem decodeVolt_keepsOperation : KeepsOperation .decodeVolt := fun _ => ⟨rfl, rfl⟩

theorem decodeCurr_keepsOperation : KeepsOperation .decodeCurr := fun _ => ⟨rfl, rfl⟩

theorem decodeCap_keepsOperation : KeepsOperation .decodeCap := fun _ => ⟨rfl, rfl⟩

/-- A command whose last two positions are a register update and the completion; `t` is the state before the update. -/
theorem runCommand_update {s t : State} {w : CmdWord} {ops : List Micro} {m : Micro} {n : Nat} (hidle : IdleFor (n + 2) s)
    (h : ctrlSteps n (accepted w ops s) = t) (hr : t.running = true) (hs : t.seq = [m, .finish .ok])
    (hm : KeepsOperation m) :
    runCommand w ops s = .next { finish .ok ((micro m (t.pop [.finish .ok])).pop []) with gap := 0 } :=
  let ⟨hrun, hseq⟩ := hm (t.pop [.finish .ok])
  runCommand_ok hidle (run_then h hr hs) (hrun.trans hr) hseq

/-- An accepted command of one register update and the completion. -/
theorem runCommand_updateOnly {s : State} {m : Micro} (hidle : IdleFor 2 s) (w : CmdWord) (hm : KeepsOperation m) :
    runCommand w [m, .finish .ok] s
      = .next { finish .ok ((micro m ((accepted w [m, .finish .ok] s).pop [.finish .ok])).pop []) with gap := 0 } :=
  runCommand_update (n := 0) hidle rfl (accepted_running hidle.1 w _) rfl hm

/-- Settles O50: the update of TEMP and the completion. -/
theorem decodeTempCompletes : Obligations.DecodeTempCompletes := by
  intro arg s hidle
  exact ⟨_, runCommand_updateOnly hidle (cmdWord 0x40 arg) decodeTemp_keepsOperation, rfl,
    (toInt_tempRegister_decodeTemperature _ _).trans (decodeTemperature_eq _ _)⟩

/-- Settles O51: the update of VOLT and the completion. -/
theorem decodeVoltCompletes : Obligations.DecodeVoltCompletes := by
  intro arg s hidle
  exact ⟨_, runCommand_updateOnly hidle (cmdWord 0x41 arg) decodeVolt_keepsOperation, rfl,
    (toNat_voltRegister_decodeVoltage _ _).trans (decodeVoltage_eq _ _)⟩

/-- Settles O52: the update of CURR and the completion. -/
theorem decodeCurrCompletes : Obligations.DecodeCurrCompletes := by
  intro arg s hidle
  exact ⟨_, runCommand_updateOnly hidle (cmdWord 0x42 arg) decodeCurr_keepsOperation, rfl,
    (toInt_currRegister_decodeCurrent _ _).trans (decodeCurrent_eq _ _)⟩

/-- Settles O53: the update of CAP and the completion. -/
theorem decodeCapCompletes : Obligations.DecodeCapCompletes := by
  intro arg s hidle
  refine ⟨_, runCommand_updateOnly hidle (cmdWord 0x43 arg) decodeCap_keepsOperation, ?_⟩
  rw [← capRegister_decodeCapacity (dataByte s.data 4)]
  rfl

/-! Reading a page and decoding it (R243, R244). -/

/-- A page read whose resets find a device leaves PRESENT set (R35, R201). -/
theorem present_readPage {s : State} {code : ResultCode} {n : Byte} {rest : List Micro} (hr : s.running = true)
    (hs : s.seq = readPageOps code n ++ rest) (hl : s.line = .free) (h0 : s.level 0 = false) (h1 : s.level 1 = false) :
    (ctrlSteps 735 s).present = true := by
  obtain ⟨v, sh, hrun⟩ := run_readPage hr hs ((presenceLevel_free hl).trans h0) (by rw [hl, secondPresence_free, h1])
  rw [hrun]

/-- Acceptance draws no level (R148). -/
theorem pageSampled_accepted {s : State} {w : CmdWord} {ops : List Micro} {j : Nat} {d : Page} :
    PageSampled (accepted w ops s) j d ↔ PageSampled s j d := Iff.rfl

/-- An accepted command of one page read, one register update and the completion, when both resets of the free LINE find
a device; `u` is the state after the page read. -/
theorem runCommand_readPage_update {s : State} {m : Micro} {n : Byte} (hidle : IdleFor 737 s) (hl : s.line = .free)
    (h0 : s.level 0 = false) (h1 : s.level 1 = false) (w : CmdWord) (hm : KeepsOperation m) :
    ∃ u, runCommand w (readPageOps .deviceNotFound n ++ [m, .finish .ok]) s
        = .next { finish .ok ((micro m (u.pop [.finish .ok])).pop []) with gap := 0 }
      ∧ Sent (accepted w (readPageOps .deviceNotFound n ++ [m, .finish .ok]) s) u [m, .finish .ok] 74
        (frameReadPage n u.data)
      ∧ u.present = true ∧ PageSampled s 2 u.data := by
  have hacc := accepted_running hidle.1 w (readPageOps .deviceNotFound n ++ [m, .finish .ok])
  obtain ⟨hsent, hpage⟩ := sent_readPage hacc rfl hl h0 h1
  exact ⟨_, runCommand_update hidle rfl (hsent.running hacc) hsent.seq hm, hsent,
    present_readPage hacc rfl hl h0 h1, pageSampled_accepted.1 hpage⟩

/-- Settles O48: page 0 is read, and CURR is updated from the bytes that then stand in DATA. -/
theorem getCurrentCompletes : Obligations.GetCurrentCompletes := by
  intro arg s hidle hl h0 h1
  obtain ⟨u, hexec, hsent, hp, hpage⟩ := runCommand_readPage_update (n := 0) hidle hl h0 h1
    (cmdWord 0x26 arg) decodeCurr_keepsOperation
  refine ⟨_, hexec, ?_, hpage, (toInt_currRegister_decodeCurrent _ _).trans (decodeCurrent_eq _ _)⟩
  rw [hsent, hp]
  rfl

/-- Settles O49: page 1 is read, and CAP is updated from byte 4 that then stands in DATA. -/
theorem getCapacityCompletes : Obligations.GetCapacityCompletes := by
  intro arg s hidle hl h0 h1
  obtain ⟨u, hexec, hsent, hp, hpage⟩ := runCommand_readPage_update (n := 1) hidle hl h0 h1
    (cmdWord 0x27 arg) decodeCap_keepsOperation
  refine ⟨_, hexec, ?_, hpage⟩
  rw [← capRegister_decodeCapacity (dataByte _ 4), hsent, hp]
  rfl

end Sys2Proof.Machine
end

section
/-! PROOFS. The configuration mutators (43_config.md): what each mask does to a byte and to a page (R272 to R277), and
`ConfigRMW` in three parts, the page read with the mask, the page write, and the two resets at which the write can fail
(R270, R271). -/

namespace Sys2Proof.Machine

/-! The masks (R272 to R277). -/

/-- An OR with a byte that has only bit `bit` sets that bit. -/
theorem getLsbD_or_singleBit {mask : Byte} {bit : Nat} (hmask : ∀ i < 8, mask.getLsbD i = decide (i = bit)) (x : Byte)
    {i : Nat} (hi : i < 8) : (x ||| mask).getLsbD i = if i = bit then true else x.getLsbD i := by
  rw [BitVec.getLsbD_or, hmask i hi]
  by_cases h : i = bit <;> simp [h]

/-- An AND with a byte that has every bit but `bit` clears that bit. -/
theorem getLsbD_and_allButBit {mask : Byte} {bit : Nat} (hmask : ∀ i < 8, mask.getLsbD i = !decide (i = bit)) (x : Byte)
    {i : Nat} (hi : i < 8) : (x &&& mask).getLsbD i = if i = bit then false else x.getLsbD i := by
  rw [BitVec.getLsbD_and, hmask i hi]
  by_cases h : i = bit <;> simp [h]

/-- Settles O57: each mask is an OR with a single bit or an AND with all bits but one. -/
theorem maskChangesOnlyItsBit : Obligations.MaskChangesOnlyItsBit := by
  intro m bit v x i hmem hi
  simp only [List.mem_cons, List.not_mem_nil, or_false, Prod.mk.injEq] at hmem
  obtain ⟨rfl, rfl, rfl⟩ | ⟨rfl, rfl, rfl⟩ | ⟨rfl, rfl, rfl⟩ | ⟨rfl, rfl, rfl⟩ | ⟨rfl, rfl, rfl⟩ | ⟨rfl, rfl, rfl⟩ := hmem
  · exact getLsbD_or_singleBit (by decide) x hi
  · exact getLsbD_and_allButBit (by decide) x hi
  · exact getLsbD_or_singleBit (by decide) x hi
  · exact getLsbD_and_allButBit (by decide) x hi
  · exact getLsbD_or_singleBit (by decide) x hi
  · exact getLsbD_and_allButBit (by decide) x hi

/-- The page a mutator writes back: the one it read, with byte 0 masked (R270). -/
def maskedPage (m : Mutation) (d : Page) : Page := setDataByte d 0 (maskByte m (dataByte d 0))

theorem dataByte_maskedPage_zero (m : Mutation) (d : Page) : dataByte (maskedPage m d) 0 = maskByte m (dataByte d 0) := by
  rw [maskedPage, dataByte_setDataByte d (by decide), if_pos rfl]

theorem dataByte_maskedPage_of_pos (m : Mutation) (d : Page) {k : Nat} (hk : 1 ≤ k) :
    dataByte (maskedPage m d) k = dataByte d k := by
  rw [maskedPage, dataByte_setDataByte d (by decide), if_neg (Nat.one_le_iff_ne_zero.1 hk)]

/-! The five mutators as `ConfigRMW` of their masks. -/

/-- Each mutator runs `ConfigRMW` with the mask of its row, and lists DATA as its one output (R270, R272 to R276). -/
theorem mutator_runCommand {arg : Byte} {i : Instr} {op : Byte} {f : Byte → Byte}
    (hmem : (i, op, f) ∈ [(Instr.enableIAD arg, (0x30 : Byte), fun x : Byte => x ||| 0x01),
      (.disableIAD arg, 0x31, (· &&& 0xFE)), (.enableCA arg, 0x32, (· ||| 0x02)), (.disableCA arg, 0x33, (· &&& 0xFD)),
      (.selectInput arg, 0x34, fun x => if arg.getLsbD 0 then x ||| 0x08 else x &&& 0xF7)]) :
    outputsOf op = { data := true }
      ∧ ∃ m, maskByte m = f ∧ ∀ s, exec i s = runCommand (cmdWord op arg) (configOps m ++ [.finish .ok]) s := by
  simp only [List.mem_cons, List.not_mem_nil, or_false, Prod.mk.injEq] at hmem
  obtain ⟨rfl, rfl, rfl⟩ | ⟨rfl, rfl, rfl⟩ | ⟨rfl, rfl, rfl⟩ | ⟨rfl, rfl, rfl⟩ | ⟨rfl, rfl, rfl⟩ := hmem
  · exact ⟨by decide, .enableIAD, rfl, fun _ => rfl⟩
  · exact ⟨by decide, .disableIAD, rfl, fun _ => rfl⟩
  · exact ⟨by decide, .enableCA, rfl, fun _ => rfl⟩
  · exact ⟨by decide, .disableCA, rfl, fun _ => rfl⟩
  · exact ⟨by decide, .selectInput (argBit arg), rfl, fun _ => rfl⟩

/-! `ConfigRMW` on the free LINE. -/

section

variable {s : State} {rest : List Micro} {code : ResultCode} {n : Byte} {m : Mutation}

theorem configOps_append :
    configOps m ++ rest = readPageOps .deviceNotFound 0 ++ .mask m :: (writePageOps .operationError 0 ++ rest) := by
  rw [configOps, List.append_assoc, List.cons_append]

theorem writePageOps_reset : ∃ rest', writePageOps code n ++ rest = resetOps (some code) ++ rest' := ⟨_, rfl⟩

/-- The mask step sends nothing (R270). -/
theorem sent_mask (hr : s.running = true) (hs : s.seq = .mask m :: rest) :
    Sent s (ctrlSteps 1 s) rest 0 [] ∧ (ctrlSteps 1 s).data = maskedPage m s.data := by
  rw [show ctrlSteps 1 s = micro (.mask m) (s.pop rest) from ctrlStep_cons hr hs]
  exact ⟨rfl, rfl⟩

/-- The read phase of `ConfigRMW` and its mask step: what remains is the write phase, of the masked page (R270). -/
theorem sent_readAndMask (hr : s.running = true) (hs : s.seq = configOps m ++ rest) (hl : s.line = .free)
    (h0 : s.level 0 = false) (h1 : s.level 1 = false) :
    ∃ d, PageSampled s 2 d ∧ (ctrlSteps 736 s).data = maskedPage m d
      ∧ Sent s (ctrlSteps 736 s) (writePageOps .operationError 0 ++ rest) 74 (frameReadPage 0 d) := by
  obtain ⟨hread, hpage⟩ := sent_readPage hr (hs.trans configOps_append) hl h0 h1
  obtain ⟨hmask, hdata⟩ := sent_mask (hread.running hr) hread.seq
  rw [← ctrlSteps_add] at hmask hdata
  refine ⟨_, hpage, hdata, ?_⟩
  simpa only [List.append_nil, Nat.add_zero] using hread.trans hmask

/-- `WritePage(n)` (R202): it sends the page in DATA, which stays there, and leaves PRESENT set. -/
theorem sent_writePage (hr : s.running = true) (hs : s.seq = writePageOps code n ++ rest) (hl : s.line = .free)
    (h0 : s.level 0 = false) (h1 : s.level 1 = false) :
    Sent s (ctrlSteps 519 s) rest 2 (frameWritePage n s.data) ∧ (ctrlSteps 519 s).data = s.data
      ∧ (ctrlSteps 519 s).present = true := by
  have hrun := run_writePage hr hs ((presenceLevel_free hl).trans h0) (by rw [hl, secondPresence_free, h1])
  simp only [hl, samplesAfter_free, devAtCopy_free, devAfterHandshake_free, List.drop_drop] at hrun
  rw [← hl] at hrun
  rw [hrun]
  exact ⟨rfl, rfl, rfl⟩

end

/-- A command that has sent the frame `f` with its device found, and has only the completion left, succeeds with the page
that then stands in DATA (R9, R329). -/
theorem runCommand_sent_ok {s u : State} {w : CmdWord} {ops : List Micro} {n j : Nat} {f : List Event}
    (hidle : IdleFor (n + 1) s) (hu : ctrlSteps n (accepted w ops s) = u)
    (hsent : Sent (accepted w ops s) u [.finish .ok] j f) (hp : u.present = true) :
    ∃ t, runCommand w ops s = .next t
      ∧ t = { completed w .ok s t with
          present := true
          data := u.data
          samples := s.samples.drop j
          draws := s.draws + j
          trace := f.reverse ++ s.trace }
      ∧ t.data = u.data := by
  refine ⟨_, runCommand_ok hidle hu (hsent.running (accepted_running hidle.1 w ops)) hsent.seq, ?_, rfl⟩
  rw [hsent, hp]
  rfl

/-! The completions of an accepted mutator, whose read phase finds the device. -/

section

variable {op arg : Byte} {m : Mutation} {s : State}

/-- All four resets find a device (R270). -/
theorem configRMW_completes (hidle : IdleFor 1256 s) (hl : s.line = .free) (h0 : s.level 0 = false)
    (h1 : s.level 1 = false) (h2 : s.level 74 = false) (h3 : s.level 75 = false) :
    ∃ (t : State) (d : Page), runCommand (cmdWord op arg) (configOps m ++ [.finish .ok]) s = .next t ∧ PageSampled s 2 d
      ∧ t = { completed (cmdWord op arg) .ok s t with
          present := true
          data := t.data
          samples := s.samples.drop 76
          draws := s.draws + 76
          trace := (frameReadPage 0 d ++ frameWritePage 0 t.data).reverse ++ s.trace }
      ∧ t.data = maskedPage m d := by
  have hacc := accepted_running hidle.1 (cmdWord op arg) (configOps m ++ [.finish .ok])
  obtain ⟨d, hpage, hdata, hread⟩ := sent_readAndMask hacc rfl hl h0 h1
  obtain ⟨hwrite, hkept, hp⟩ := sent_writePage (hread.running hacc) hread.seq (hread.line.trans hl)
    ((hread.level 0).trans h2) ((hread.level 1).trans h3)
  rw [← ctrlSteps_add] at hwrite hkept hp
  have hsent := hread.trans hwrite
  rw [← hkept] at hsent
  obtain ⟨t, hend, ht, htdata⟩ := runCommand_sent_ok hidle rfl hsent hp
  rw [← htdata] at ht
  exact ⟨t, d, hend, pageSampled_accepted.1 hpage, ht, htdata.trans (hkept.trans hdata)⟩

/-- The first reset of the write phase finds no device (R271). -/
theorem configRMW_firstWriteReset_fails (houts : outputsOf op = { data := true }) (hidle : IdleFor 744 s)
    (hl : s.line = .free) (h0 : s.level 0 = false) (h1 : s.level 1 = false) (h2 : s.level 74 = true) :
    ∃ (t : State) (d : Page), runCommand (cmdWord op arg) (configOps m ++ [.finish .ok]) s = .next t ∧ PageSampled s 2 d
      ∧ t = { aborted (cmdWord op arg) .operationError { data := true } s t with
          samples := s.samples.drop 75
          draws := s.draws + 75
          trace := (frameReadPage 0 d ++ frameReset true).reverse ++ s.trace } := by
  have hacc := accepted_running hidle.1 (cmdWord op arg) (configOps m ++ [.finish .ok])
  obtain ⟨d, hpage, -, hread⟩ := sent_readAndMask hacc rfl hl h0 h1
  obtain ⟨rest', hops⟩ := writePageOps_reset (code := .operationError) (n := 0) (rest := [.finish .ok])
  rw [hops] at hread
  obtain ⟨t, hend, ht⟩ := runCommand_aborted (n := 736) hidle hl houts hread (.inl rfl) h2
  exact ⟨t, d, hend, pageSampled_accepted.1 hpage, ht⟩

/-- The second reset of the write phase finds no device, when the masked page has gone out (R271). -/
theorem configRMW_secondWriteReset_fails (houts : outputsOf op = { data := true }) (hidle : IdleFor 1157 s)
    (hl : s.line = .free) (h0 : s.level 0 = false) (h1 : s.level 1 = false) (h2 : s.level 74 = false)
    (h3 : s.level 75 = true) :
    ∃ (t : State) (d : Page), runCommand (cmdWord op arg) (configOps m ++ [.finish .ok]) s = .next t ∧ PageSampled s 2 d
      ∧ t = { aborted (cmdWord op arg) .operationError { data := true } s t with
          samples := s.samples.drop 76
          draws := s.draws + 76
          trace := (frameReadPage 0 d ++ frameHandshake 0x4E 0 ++ (maskedPage m d).toList.flatMap frameWriteByte
            ++ frameReset true).reverse ++ s.trace } := by
  have hacc := accepted_running hidle.1 (cmdWord op arg) (configOps m ++ [.finish .ok])
  obtain ⟨d, hpage, hdata, hread⟩ := sent_readAndMask hacc rfl hl h0 h1
  obtain ⟨rest', hops⟩ := writePageOps_secondReset .operationError 0 [.finish .ok]
  obtain ⟨hwrite, -⟩ := sent_writeData (hread.running hacc) (hread.seq.trans hops) (hread.line.trans hl)
    ((hread.level 0).trans h2)
  rw [← ctrlSteps_add, hdata] at hwrite
  obtain ⟨t, hend, ht⟩ := runCommand_aborted (n := 736 + 413) hidle hl houts (hread.trans hwrite) (.inl rfl) h3
  rw [← List.append_assoc] at ht
  exact ⟨t, d, hend, pageSampled_accepted.1 hpage, ht⟩

end

/-- Settles O55: each mutator is `ConfigRMW` of its mask, which writes the masked page back. -/
theorem mutatorsComplete : Obligations.MutatorsComplete := by
  intro arg i op f s hmem hidle hl h0 h1 h2 h3
  obtain ⟨-, m, rfl, hexec⟩ := mutator_runCommand hmem
  obtain ⟨t, d, hend, hpage, ht, hdata⟩ := configRMW_completes hidle hl h0 h1 h2 h3
  refine ⟨t, d, (hexec s).trans hend, hpage, ht, ?_, fun k hk _ => ?_⟩
  · rw [hdata, dataByte_maskedPage_zero]
  · rw [hdata, dataByte_maskedPage_of_pos m d hk]

/-- Settles O56: by which reset of the write phase fails. -/
theorem mutatorWriteFailureIsOperationError : Obligations.MutatorWriteFailureIsOperationError := by
  intro arg i op f s hmem hl h0 h1
  obtain ⟨houts, m, rfl, hexec⟩ := mutator_runCommand hmem
  refine ⟨fun hidle h2 => ?_, fun hidle h2 h3 => ?_⟩
  · obtain ⟨t, d, hend, hpage, ht⟩ := configRMW_firstWriteReset_fails houts hidle hl h0 h1 h2
    exact ⟨t, d, (hexec s).trans hend, hpage, ht⟩
  · obtain ⟨t, d, hend, hpage, ht⟩ := configRMW_secondWriteReset_fails houts hidle hl h0 h1 h2 h3
    exact ⟨t, d, maskedPage m d, (hexec s).trans hend, hpage, dataByte_maskedPage_zero m d,
      fun k hk _ => dataByte_maskedPage_of_pos m d hk, ht⟩

end Sys2Proof.Machine
end

section
/-! PROOFS. Conversions (44_conversion.md): the two starts, the two single polls, and the blocking reads on the free LINE,
which end with the first image whose busy bit is clear (R298) and do not end before it (R344). -/

namespace Sys2Proof.Machine

/-! The starts (R291, R293, R294). -/

/-- A start whose reset finds a device leaves PRESENT set, and DATA as it was (R291). -/
theorem startConversion_leaves {s : State} {c : Byte} {rest : List Micro} (hr : s.running = true)
    (hs : s.seq = startConversionOps c ++ rest) (hl : s.line = .free) (h0 : s.level 0 = false) :
    (ctrlSteps 73 s).present = true ∧ (ctrlSteps 73 s).data = s.data := by
  rw [run_startConversion hr hs ((presenceLevel_free hl).trans h0)]
  exact ⟨rfl, rfl⟩

/-- The two starts, each with its convert command (R293, R294). -/
theorem startConversion_runCommand {arg : Byte} {i : Instr} {op command : Byte}
    (hmem : (i, op, command) ∈ [(Instr.startVConv arg, (0x20 : Byte), (0xB4 : Byte)), (.startTConv arg, 0x21, 0x44)])
    (s : State) : exec i s = runCommand (cmdWord op arg) (startConversionOps command ++ [.finish .ok]) s := by
  simp only [List.mem_cons, List.not_mem_nil, or_false, Prod.mk.injEq] at hmem
  obtain ⟨rfl, rfl, rfl⟩ | ⟨rfl, rfl, rfl⟩ := hmem
  · rfl
  · rfl

/-- Settles O43: the start is all that is sent before the completion. -/
theorem startConversionCompletes : Obligations.StartConversionCompletes := by
  intro arg i op command s hmem hidle hl h0
  have hacc := accepted_running hidle.1 (cmdWord op arg) (startConversionOps command ++ [.finish .ok])
  obtain ⟨hp, hdata⟩ := startConversion_leaves hacc rfl hl h0
  obtain ⟨t, hend, ht, -⟩ := runCommand_sent_ok hidle rfl (sent_startConversion hacc rfl hl h0) hp
  rw [hdata] at ht
  exact ⟨t, (startConversion_runCommand hmem s).trans hend, ht⟩

/-! The single polls (R295 to R297). -/

theorem testReady_keepsOperation (k : BusyBit) : KeepsOperation (.testReady k) := fun _ => ⟨rfl, rfl⟩

/-- The two single polls, each with its busy bit (R296, R297). -/
theorem hasData_runCommand {arg : Byte} {i : Instr} {op : Byte} {bit : Nat}
    (hmem : (i, op, bit) ∈ [(Instr.hasDataV arg, (0x22 : Byte), 6), (.hasDataT arg, 0x23, 4)]) (s : State) :
    ∃ k, busyBitIndex k = bit ∧ exec i s
      = runCommand (cmdWord op arg) (readPageOps .deviceNotFound 0 ++ [.testReady k, .finish .ok]) s := by
  simp only [List.mem_cons, List.not_mem_nil, or_false, Prod.mk.injEq] at hmem
  obtain ⟨rfl, rfl, rfl⟩ | ⟨rfl, rfl, rfl⟩ := hmem
  · exact ⟨.voltage, rfl, rfl⟩
  · exact ⟨.temperature, rfl, rfl⟩

/-- Settles O44: page 0 is read, and READY is updated from byte 0 that then stands in DATA. -/
theorem hasDataCompletes : Obligations.HasDataCompletes := by
  intro arg i op bit s hmem hidle hl h0 h1
  obtain ⟨k, rfl, hexec⟩ := hasData_runCommand hmem s
  obtain ⟨u, hend, hsent, hp, hpage⟩ := runCommand_readPage_update (n := 0) hidle hl h0 h1 (cmdWord op arg)
    (testReady_keepsOperation k)
  refine ⟨_, hexec.trans hend, ?_, hpage⟩
  rw [hsent, hp]
  rfl

/-! The blocking reads, to their end (R298 to R300). -/

/-- The test of an image whose busy bit is clear leaves the loop, with READY set (R298). -/
theorem micro_pollReady_ready {k : BusyBit} {s : State}
    (h : (dataByte s.data 0).getLsbD (busyBitIndex k) = false) : micro (.pollReady k) s = { s with ready := true } := by
  have hready : readyOfByte k (dataByte s.data 0) = true := by rw [readyOfByte, h, Bool.not_false]
  rw [micro, pollReady_eq, if_pos hready, if_pos hready]

section

variable {s : State} {k : BusyBit} {c : Byte} {rest : List Micro} {p : Nat}

/-- The start, `p` busy polls and the page read of one more poll, before its test; the last image stands in DATA (R298). -/
theorem sent_lastPoll (hr : s.running = true) (hs : s.seq = startConversionOps c ++ pollOps k rest) (hl : s.line = .free)
    (h0 : s.level 0 = false) (hresets : ∀ j, j ≤ p → s.level (74 * j + 1) = false ∧ s.level (74 * j + 2) = false)
    (hbusy : ∀ j, j < p → s.level (74 * j + 3 + busyBitIndex k) = true) :
    ∃ (u : State) (polls : List Page), ctrlSteps (808 + 736 * p) s = u ∧ polls.length = p
      ∧ Sent s u (.pollReady k :: rest) (74 * p + 75) (frameStart c ++ (polls ++ [u.data]).flatMap (frameReadPage 0))
      ∧ u.present = true ∧ (∀ j (h : j < polls.length), PageSampled s (74 * j + 3) polls[j])
      ∧ PageSampled s (74 * p + 3) u.data := by
  obtain ⟨polls, hlen, hpolls, hsent⟩ := sent_startAndPolls p hr hs hl h0
    fun j hj => ⟨(hresets j hj.le).1, (hresets j hj.le).2, hbusy j hj⟩
  obtain ⟨hfirst, hsecond⟩ := hresets p le_rfl
  have hr' := hsent.running hr
  have hl' := hsent.line.trans hl
  have h0' := (hsent.level 0).trans hfirst
  have h1' := (hsent.level 1).trans hsecond
  obtain ⟨hread, hpage⟩ := sent_readPage hr' hsent.seq hl' h0' h1'
  have hp := present_readPage hr' hsent.seq hl' h0' h1'
  have hall := hsent.trans hread
  have hlast := hsent.pageSampled hpage
  rw [← ctrlSteps_add, show 73 + 736 * p + 735 = 808 + 736 * p by omega] at hall hp hlast
  refine ⟨_, polls, rfl, hlen, ?_, hp, hpolls, hlast⟩
  simpa only [List.flatMap_append, List.flatMap_singleton, List.append_assoc, Nat.add_assoc] using hall

/-- A blocking read that decodes with `m` after `p` busy polls and a ready one; `u` is the state before the test of the
last image. -/
theorem runCommand_blockingRead {m : Micro} (hidle : IdleFor (811 + 736 * p) s) (hl : s.line = .free)
    (h0 : s.level 0 = false) (hresets : ∀ j, j ≤ p → s.level (74 * j + 1) = false ∧ s.level (74 * j + 2) = false)
    (hbusy : ∀ j, j < p → s.level (74 * j + 3 + busyBitIndex k) = true)
    (hready : s.level (74 * p + 3 + busyBitIndex k) = false) (w : CmdWord) (hm : KeepsOperation m) :
    ∃ (u : State) (polls : List Page), runCommand w (startConversionOps c ++ pollOps k [m, .finish .ok]) s
        = .next { finish .ok ((micro m
            (State.pop { u.pop [m, .finish .ok] with ready := true } [.finish .ok])).pop []) with gap := 0 }
      ∧ polls.length = p
      ∧ Sent (accepted w (startConversionOps c ++ pollOps k [m, .finish .ok]) s) u [.pollReady k, m, .finish .ok]
        (74 * p + 75) (frameStart c ++ (polls ++ [u.data]).flatMap (frameReadPage 0))
      ∧ u.present = true ∧ (∀ j (h : j < polls.length), PageSampled s (74 * j + 3) polls[j])
      ∧ PageSampled s (74 * p + 3) u.data := by
  have hacc := accepted_running hidle.1 w (startConversionOps c ++ pollOps k [m, .finish .ok])
  obtain ⟨u, polls, hu, hlen, hsent, hp, hpolls, hlast⟩ := sent_lastPoll hacc rfl hl h0 hresets hbusy
  have hclear : (dataByte u.data 0).getLsbD (busyBitIndex k) = false :=
    (hlast 0 (by decide) _ (busyBitIndex_lt k)).trans hready
  have htest := (run_then hu (hsent.running hacc) hsent.seq).trans (micro_pollReady_ready hclear)
  refine ⟨u, polls, runCommand_update (n := 808 + 736 * p + 1) ?_ htest (hsent.running hacc) rfl hm, hlen, hsent, hp,
    fun j h => pageSampled_accepted.1 (hpolls j h), pageSampled_accepted.1 hlast⟩
  rwa [show 808 + 736 * p + 1 + 2 = 811 + 736 * p by omega]

end

/-- Settles O45: VOLT is updated from bytes 3 and 4 of the image that ends the loop. -/
theorem readVoltageCompletes : Obligations.ReadVoltageCompletes := by
  intro arg p s hidle hl h0 hresets hbusy hready
  obtain ⟨u, polls, hend, hlen, hsent, hp, hpolls, hlast⟩ := runCommand_blockingRead (k := .voltage) (c := 0xB4) hidle hl h0
    hresets hbusy hready (cmdWord 0x24 arg) decodeVolt_keepsOperation
  refine ⟨_, polls, hend, hlen, ?_, hpolls, hlast, (toNat_voltRegister_decodeVoltage _ _).trans (decodeVoltage_eq _ _)⟩
  rw [hsent, hp]
  rfl

/-- Settles O46: TEMP is updated from bytes 1 and 2 of the image that ends the loop. -/
theorem readTemperatureCompletes : Obligations.ReadTemperatureCompletes := by
  intro arg p s hidle hl h0 hresets hbusy hready
  obtain ⟨u, polls, hend, hlen, hsent, hp, hpolls, hlast⟩ := runCommand_blockingRead (k := .temperature) (c := 0x44) hidle hl
    h0 hresets hbusy hready (cmdWord 0x25 arg) decodeTemp_keepsOperation
  refine ⟨_, polls, hend, hlen, ?_, hpolls, hlast,
    (toInt_tempRegister_decodeTemperature _ _).trans (decodeTemperature_eq _ _)⟩
  rw [hsent, hp]
  rfl

/-! The blocking reads, before their end (R298, R344). -/

/-- An operation that runs after `n` CTRL steps ran after any fewer: nothing starts one but a command (R148, R343). -/
theorem running_of_le {s : State} {m n : Nat} (hmn : m ≤ n) (h : (ctrlSteps n s).running = true) :
    (ctrlSteps m s).running = true := by
  obtain ⟨d, rfl⟩ := Nat.le.dest hmn
  by_contra hm
  rw [ctrlSteps_add, ctrlSteps_idle (Bool.eq_false_iff.2 hm)] at h
  exact hm h

/-- While an operation runs, CTRL does not set DONE: `Finish`, which does, ends it (R33, R329). -/
theorem done_ctrlStep {s : State} (h : s.busy = true → s.done = false) :
    (ctrlStep s).busy = true → (ctrlStep s).done = false := by
  unfold ctrlStep
  split
  next =>
    split
    next => exact h
    next m rest hs =>
      by_cases hm : ∃ c, m = .finish c
      · obtain ⟨c, rfl⟩ := hm
        exact nofun
      · obtain ⟨-, hdone, hbusy⟩ := micro_running (fun c hc => hm ⟨c, hc⟩) (s.pop rest)
        rw [hdone, hbusy]
        exact h
  next => exact h

theorem done_ctrlSteps (n : Nat) {s : State} (h : s.busy = true → s.done = false) :
    (ctrlSteps n s).busy = true → (ctrlSteps n s).done = false := by
  induction n generalizing s with
  | zero => exact h
  | succ n ih => exact ih (done_ctrlStep h)

/-- A command whose operation still runs after `n` CTRL steps is busy and not done at the end of a gap of at most `n`. -/
theorem runCommand_still_running {s : State} {w : CmdWord} {ops : List Micro} {n : Nat} (hr : s.rstN = true)
    (hb : s.busy = false) (hgap : s.gap ≤ n) (hrun : (ctrlSteps n (accepted w ops s)).running = true) :
    ∃ t, runCommand w ops s = .next t ∧ t.busy = true ∧ t.done = false := by
  obtain ⟨-, hbusy⟩ := (running_iff _).1 (running_of_le hgap hrun)
  have hdone := done_ctrlSteps s.gap (fun _ => accepted_done w ops s) hbusy
  refine ⟨settle (accepted w ops s), ?_, hbusy, hdone⟩
  rw [runCommand, offer_accepts hr hb]

/-- No interrupt is requested before the completion (R40, R331). -/
theorem irq_of_not_done {s : State} (h : s.done = false) : irq s = false := by
  rw [irq, h, Bool.and_false]

/-- The form of `blockingRead_runCommand` for a statement that names the busy bit only. -/
theorem blockingRead_bit {arg : Byte} {i : Instr} {bit : Nat}
    (hmem : (i, bit) ∈ [(Instr.readVoltage arg, 6), (.readTemperature arg, 4)]) (s : State) :
    ∃ w c k rest, busyBitIndex k = bit ∧ exec i s = runCommand w (startConversionOps c ++ pollOps k rest) s := by
  simp only [List.mem_cons, List.not_mem_nil, or_false, Prod.mk.injEq] at hmem
  obtain ⟨rfl, rfl⟩ | ⟨rfl, rfl⟩ := hmem
  · obtain ⟨-, -, hexec⟩ := blockingRead_runCommand (arg := arg) List.mem_cons_self s
    exact ⟨_, _, hexec⟩
  · obtain ⟨-, -, hexec⟩ := blockingRead_runCommand (arg := arg) (List.mem_cons_of_mem _ List.mem_cons_self) s
    exact ⟨_, _, hexec⟩

/-- Settles O47: after the start and `p` busy polls the operation runs, so it ran at any moment before. -/
theorem pollRunsOnWhileBusy : Obligations.PollRunsOnWhileBusy := by
  intro arg i bit p s hmem hr hb hgap hl h0 hlev
  obtain ⟨w, c, k, rest, rfl, hexec⟩ := blockingRead_bit hmem s
  have hacc := accepted_running hr w (startConversionOps c ++ pollOps k rest)
  obtain ⟨polls, -, -, hsent⟩ := sent_startAndPolls p hacc rfl hl h0 hlev
  obtain ⟨t, hend, hbusy, hdone⟩ := runCommand_still_running hr hb hgap (hsent.running hacc)
  exact ⟨t, hexec.trans hend, hbusy, hdone, irq_of_not_done hdone⟩

end Sys2Proof.Machine
end

section
/-! PROOFS. Exceptions (60_exceptions.md): the idle block (R343), commands with an unassigned OP (R324), and operations whose
first reset finds no device (R321, R338). -/

namespace Sys2Proof.Machine

/-! The idle block (R343). -/

/-- CTRL's turn when no operation runs, or the block is held in reset, does nothing but let the gap pass (R343, R360). -/
theorem ctrlTurn_idle {s : State} (h : s.running = false) : ctrlTurn s = .next { s with gap := 0 } := by
  obtain ⟨x, i, rest, hrun, -⟩ | hturn := ctrlTurn_cases s
  · exact absurd (hrun.symm.trans h) (by decide)
  · rw [hturn, show ctrlStep s = s from ctrlSteps_idle h 1, settle_idle h]

/-- Settles O9: with no input CTRL has its turn, and no operation runs. -/
theorem idleBlockDoesNothing : Obligations.IdleBlockDoesNothing := by
  intro s hi hb
  rw [step_ctrlTurn hi, ctrlTurn_idle (by rw [State.running, hb, Bool.and_false])]

/-! Commands with an unassigned OP (R324). -/

/-- Only operations of the opcode map list an output (R338). -/
theorem opsWithOutputs_subset_hostRows : opsWithOutputs ⊆ hostRows.map HostRow.op := by decide

/-- An unassigned OP lists no output (R324). -/
theorem outputsOf_illegal {w : CmdWord} {op : Byte} (hd : decode w = .illegal op) : outputsOf (opField w) = {} := by
  obtain ⟨rfl, hrows⟩ := decode_eq_illegal_iff.1 hd
  refine outputsOf_of_notMem fun hmem => ?_
  obtain ⟨r, hr, hop⟩ := List.mem_map.1 (opsWithOutputs_subset_hostRows hmem)
  exact hrows r hr hop

/-- The completion of a command with an unassigned OP, which writes no output (R324). -/
theorem illegalCommand_completes {w : CmdWord} {op : Byte} (hd : decode w = .illegal op) {s : State} (hidle : IdleFor 1 s) :
    ∃ t, illegalCommand w s = .next t ∧ t = completed w .illegalCommand s t := by
  refine ⟨_, runCommand_finishAtOnce hidle w .illegalCommand, ?_⟩
  rw [finish_listed (outs := {}) (outputsOf_illegal hd)]
  rfl

/-- Settles O29: by whether a CTRL step follows the acceptance. -/
theorem illegalCommandFinishesAtOnce : Obligations.IllegalCommandFinishesAtOnce := by
  intro s v n op rest hr hb hi hd
  rw [step_command hi, commandWrite_illegal hd]
  obtain rfl | hn := Nat.eq_zero_or_pos n
  · exact ⟨_, runCommand_accepts (s := (s.takeInput rest 0).respond .done) hr hb rfl _ _,
      fun _ => ⟨rfl, rfl, rfl, rfl⟩, fun h => absurd h (lt_irrefl 0)⟩
  · obtain ⟨t, hend, ht⟩ := illegalCommand_completes hd (s := (s.takeInput rest n).respond .done) ⟨hr, hb, hn⟩
    exact ⟨t, hend, fun h => absurd h hn.ne', fun _ => ht⟩

/-! Operations whose first reset finds no device (R321). -/

/-- `Finish` keeps each register that the operation in OPL does not list as an output (R338). -/
theorem finish_keeps_unlisted {c : ResultCode} {s : State} {outs : Outputs} (h : outputsOf s.opl = outs) :
    (outs.data = false → (finish c s).data = s.data) ∧ (outs.rxdata = false → (finish c s).rxdata = s.rxdata)
      ∧ (outs.temp = false → (finish c s).temp = s.temp) ∧ (outs.volt = false → (finish c s).volt = s.volt)
      ∧ (outs.curr = false → (finish c s).curr = s.curr) ∧ (outs.cap = false → (finish c s).cap = s.cap)
      ∧ (outs.ready = false → (finish c s).ready = s.ready) := by
  subst h
  exact ⟨fun h => finish_keeps State.data (fun _ => rfl) scrambleOutputs_data (.inr (Bool.eq_false_iff.1 h)),
    fun h => finish_keeps State.rxdata (fun _ => rfl) scrambleOutputs_rxdata (.inr (Bool.eq_false_iff.1 h)),
    fun h => finish_keeps State.temp (fun _ => rfl) scrambleOutputs_temp (.inr (Bool.eq_false_iff.1 h)),
    fun h => finish_keeps State.volt (fun _ => rfl) scrambleOutputs_volt (.inr (Bool.eq_false_iff.1 h)),
    fun h => finish_keeps State.curr (fun _ => rfl) scrambleOutputs_curr (.inr (Bool.eq_false_iff.1 h)),
    fun h => finish_keeps State.cap (fun _ => rfl) scrambleOutputs_cap (.inr (Bool.eq_false_iff.1 h)),
    fun h => finish_keeps State.ready (fun _ => rfl) scrambleOutputs_ready (.inr (Bool.eq_false_iff.1 h))⟩

/-- What a running operation has come to when its reset has found no device and `Finish`, the one position that remained,
is taken up (R164, R170). -/
def noDeviceFound (s : State) : State :=
  { s with
    busState := .presence
    lineDrive := false
    present := false
    vbit := true
    seq := []
    epoch := s.epoch + 8
    samples := samplesAfter s.line s.samples
    draws := s.draws + 1
    dev := devAfterReset s.line s.dev
    trace := (frameReset true).reverse ++ s.trace }

/-- An accepted command whose first positions are a reset that finds no device, for every LINE: whatever positions would
have followed, the completion does (R170). -/
theorem runCommand_firstReset_none {s : State} {w : CmdWord} {code : ResultCode} {rest : List Micro} (hidle : IdleFor 8 s)
    (hp : s.presenceLevel = true) :
    runCommand w (resetOps (some code) ++ rest) s
      = .next { finish code (noDeviceFound (accepted w (resetOps (some code) ++ rest) s)) with gap := 0 } := by
  obtain ⟨hr, hb, hgap⟩ := hidle
  exact runCommand_finish hr hb hgap (run_reset_none (accepted_running hr w _) rfl hp)

/-- `ReadPage(n)`, `WritePage(n)`, `StartConversion(cmd)` and `ConfigRMW(f)` all begin with a bus reset (R201, R202, R270,
R291): the operations made of them, each with its outputs, of which none is RXDATA. -/
theorem firstReset_runCommand {arg : Byte} {i : Instr} {op : Byte} {outs : Outputs}
    (hmem : (i, op, outs) ∈ [(Instr.readPage arg, (0x10 : Byte), ({ data := true } : Outputs)), (.writePage arg, 0x11, {}),
      (.startVConv arg, 0x20, {}), (.startTConv arg, 0x21, {}),
      (.hasDataV arg, 0x22, { data := true, ready := true }), (.hasDataT arg, 0x23, { data := true, ready := true }),
      (.readVoltage arg, 0x24, { data := true, volt := true, ready := true }),
      (.readTemperature arg, 0x25, { data := true, temp := true, ready := true }),
      (.getCurrent arg, 0x26, { data := true, curr := true }), (.getCapacity arg, 0x27, { data := true, cap := true }),
      (.enableIAD arg, 0x30, { data := true }), (.disableIAD arg, 0x31, { data := true }),
      (.enableCA arg, 0x32, { data := true }), (.disableCA arg, 0x33, { data := true }),
      (.selectInput arg, 0x34, { data := true })])
    (hn : op = 0x10 ∨ op = 0x11 → arg.toNat ≤ 7) (s : State) :
    outputsOf op = outs ∧ outs.rxdata = false
      ∧ ∃ rest, exec i s = runCommand (cmdWord op arg) (resetOps (some .deviceNotFound) ++ rest) s := by
  simp only [List.mem_cons, List.not_mem_nil, or_false, Prod.mk.injEq] at hmem
  obtain ⟨rfl, rfl, rfl⟩ | ⟨rfl, rfl, rfl⟩ | hmem := hmem
  · refine ⟨by decide, rfl, ?_⟩
    rw [exec, execReadPage, checkedPage_inRange (hn (.inl rfl))]
    exact ⟨_, rfl⟩
  · refine ⟨by decide, rfl, ?_⟩
    rw [exec, execWritePage, checkedPage_inRange (hn (.inr rfl))]
    exact ⟨_, rfl⟩
  · obtain ⟨rfl, rfl, rfl⟩ | ⟨rfl, rfl, rfl⟩ | ⟨rfl, rfl, rfl⟩ | ⟨rfl, rfl, rfl⟩ | ⟨rfl, rfl, rfl⟩ | ⟨rfl, rfl, rfl⟩
      | ⟨rfl, rfl, rfl⟩ | ⟨rfl, rfl, rfl⟩ | ⟨rfl, rfl, rfl⟩ | ⟨rfl, rfl, rfl⟩ | ⟨rfl, rfl, rfl⟩ | ⟨rfl, rfl, rfl⟩
      | ⟨rfl, rfl, rfl⟩ := hmem
    all_goals exact ⟨by decide, rfl, _, rfl⟩

/-- Settles O41: each operation begins with the reset that fails, and its completion keeps the registers it does not list. -/
theorem firstResetFailureEndsOperation : Obligations.FirstResetFailureEndsOperation := by
  intro arg i op outs s hmem hn hidle hp
  obtain ⟨houts, hlist, rest, hexec⟩ := firstReset_runCommand hmem hn s
  have hopl : outputsOf (noDeviceFound (accepted (cmdWord op arg) (resetOps (some .deviceNotFound) ++ rest) s)).opl = outs :=
    (congrArg outputsOf (extract_op op arg)).trans houts
  obtain ⟨hdata, hrxdata, htemp, hvolt, hcurr, hcap, hready⟩ := finish_keeps_unlisted (c := .deviceNotFound) hopl
  refine ⟨_, hexec.trans (runCommand_firstReset_none hidle hp), ?_, hdata, htemp, hvolt, hcurr, hcap, hready⟩
  conv_lhs => rw [finish_frame, hrxdata hlist]
  rfl

end Sys2Proof.Machine
end

section
/-! PROOFS. The block reset (10_state.md R55, 70_reset_and_hazards.md R360 to R362): what pulling `rst_n` low does at any
moment, and that a block held in reset only answers. -/

namespace Sys2Proof.Machine

/-! Pulling `rst_n` low. -/

/-- The step that pulls `rst_n` low: the block reset, and a gap in which CTRL, held in reset, does nothing (R360). -/
theorem step_resetPin_low {s : State} {n : Nat} {rest : List (Input × Nat)} (hi : s.inputs = (.resetPin false, n) :: rest) :
    step s = .next { blockReset { s.takeInput rest n with rstN := false } with gap := 0 } := by
  rw [step, hi]
  exact congrArg _ (settle_idle (running_of_rstN rfl))

/-- Settles O14: the step is the block reset, which owns no field of the line's other end, the device or the trace. -/
theorem blockResetAbandonsOperation : Obligations.BlockResetAbandonsOperation := by
  intro s n rest hi
  exact ⟨_, step_resetPin_low hi, rfl, atResetValues_blockReset { s.takeInput rest n with rstN := false }, rfl, rfl, rfl,
    rfl, rfl, rfl, rfl, rfl⟩

/-! The block held in reset. -/

/-- A block at its reset values is the one after reset, but for what R55 gives no value and what is not the block's
(log 13, log 15). -/
theorem eq_reset_of_atResetValues {s : State} (h : atResetValues s = true) :
    s = { State.reset with
      rstN := s.rstN
      slot := s.slot
      shift := s.shift
      byteCnt := s.byteCnt
      vbit := s.vbit
      resp := s.resp
      inputs := s.inputs
      gap := s.gap
      line := s.line
      samples := s.samples
      draws := s.draws
      epoch := s.epoch
      dev := s.dev
      trace := s.trace } := by
  cases s
  simp_all [atResetValues, State.reset]

/-- At its reset values the block answers every read with 0 (R55, R360). -/
theorem readRegister_of_atResetValues {s : State} (h : atResetValues s = true) (off : BitVec 7) : readRegister s off = 0 := by
  rw [eq_reset_of_atResetValues h]
  exact readRegister_reset off

section

variable {s : State} {off : BitVec 7}

/-- After an answer CTRL, held in reset, lets the gap pass (R360). -/
theorem settle_respond_in_reset (hr : s.rstN = false) (r : HostResponse) :
    settle (s.respond r) = { s with resp := r, gap := 0 } :=
  settle_idle (running_of_rstN (s := s.respond r) hr)

/-- A write is ignored while the block is held in reset (R360). -/
theorem hostWrite_in_reset (hr : s.rstN = false) (v : Word) : hostWrite s off v = s := by
  rw [hostWrite, hr]
  rfl

theorem portStep_read_in_reset (hr : s.rstN = false) (h : atResetValues s = true) (hword : off.toNat % 4 = 0) :
    portStep ⟨.read, 4, off⟩ s = .next { s with resp := .data 0, gap := 0 } := by
  rw [portStep_read hword, readRegister_of_atResetValues h, settle_respond_in_reset hr]

/-- A write is answered and ignored, to CMD as to any other register. -/
theorem portStep_write_in_reset (hr : s.rstN = false) (hword : off.toNat % 4 = 0) (v : Word) :
    portStep ⟨.write v, 4, off⟩ s = .next { s with resp := .done, gap := 0 } := by
  by_cases hoff : off = 0
  · subst hoff
    exact (portStep_command v).trans (commandWrite_in_reset (s := s.respond .done) hr _)
  · rw [portStep_write hword hoff, hostWrite_in_reset hr, settle_respond_in_reset hr]

/-- An undefined access still gets the error response (R325, log 15). -/
theorem portStep_fault_in_reset {a : HostAccess} (hr : s.rstN = false)
    (ha : ¬(a.bytes = 4 ∧ a.offset.toNat % 4 = 0)) :
    portStep a s = .next { s with resp := .accessFault, gap := 0 } := by
  rw [portStep_fault ha, settle_respond_in_reset hr]

end

/-- Settles O15: an access by whether it is defined and by what it asks; without input, and when `rst_n` rises on the idle
block, only the gap passes. -/
theorem heldInResetNothingMoves : Obligations.HeldInResetNothingMoves := by
  intro s hr h
  refine ⟨?_, fun hi => ?_, fun n rest hi => ?_⟩
  · rintro ⟨op, bytes, off⟩ n rest hi
    rw [step, hi]
    by_cases hdef : bytes = 4 ∧ off.toNat % 4 = 0
    · obtain ⟨rfl, hword⟩ := hdef
      cases op with
      | read =>
        exact ⟨_, portStep_read_in_reset (s := s.takeInput rest n) hr h hword, fun _ _ => rfl, fun _ v hv => (by cases hv),
          fun hn => absurd ⟨rfl, hword⟩ hn⟩
      | write v =>
        exact ⟨_, portStep_write_in_reset (s := s.takeInput rest n) hr hword v, fun _ hv => (by cases hv), fun _ _ _ => rfl,
          fun hn => absurd ⟨rfl, hword⟩ hn⟩
    · exact ⟨_, portStep_fault_in_reset (s := s.takeInput rest n) hr hdef, fun hd => absurd hd hdef,
        fun hd => absurd hd hdef, fun _ => rfl⟩
  · rw [step_ctrlTurn hi, ctrlTurn_idle (running_of_rstN hr)]
  · have hbusy : s.busy = false := by rw [eq_reset_of_atResetValues h]; rfl
    rw [step, hi]
    exact congrArg _ (settle_idle (s := { s.takeInput rest n with rstN := true }) (running_of_busy hbusy))

end Sys2Proof.Machine
end

section
/-! PROOFS. Bounded completion (00_scope.md R9, 70_reset_and_hazards.md R380): how soon the positions of each operation but the
two blocking reads end in `Finish`, whatever the LINE answers. -/

namespace Sys2Proof.Machine

/-! How soon the positions of a family end. -/

section

variable {n : Nat} {ops rest : List Micro}

/-- One write slot (R165). -/
theorem endsIn_writeBit {b : Bool} (h : EndsIn n rest) : EndsIn (n + 4) (writeBitOps b ++ rest) :=
  endsIn_of_run h fun s hr hs => by rw [run_writeBit hr hs]; exact ⟨hr, rfl⟩

/-- With PRESENT = 0 nothing but a `Finish` stands in SEQ (R172). -/
theorem endsIn_gated (h : EndsIn n ops) (hn : 1 ≤ n) (s : State) : EndsIn n (gated s ops) := by
  unfold gated
  split
  · exact h
  · exact (endsIn_finish _).mono hn

/-- For a page above 7 nothing but a `Finish` stands in SEQ (R200). -/
theorem endsIn_checkedPage (h : EndsIn n ops) (hn : 1 ≤ n) (p : Byte) : EndsIn n (checkedPage p ops) := by
  unfold checkedPage
  split
  · exact h
  · exact (endsIn_finish _).mono hn

end

/-- A position that neither ends an operation nor adds to it, and the completion. -/
theorem endsIn_update {m : Micro} (hm : ∀ s, (micro m s).busy = s.busy ∧ (micro m s).seq = s.seq) :
    EndsIn 2 [m, .finish .ok] := endsIn_one (endsIn_finish .ok) hm

/-- `ConfigRMW(f)` (R270): a page read, the mask and a page write. -/
theorem endsIn_config (m : Mutation) : EndsIn 1256 (configOps m ++ [.finish .ok]) := by
  have hmask : EndsIn 521 (.mask m :: (writePageOps .operationError 0 ++ [.finish .ok])) :=
    endsIn_one (endsIn_writePage (endsIn_finish .ok)) fun _ => ⟨rfl, rfl⟩
  rw [configOps, List.append_assoc, List.cons_append]
  exact endsIn_readPage hmask

/-! Every operation but the two blocking reads. -/

/-- The instruction is a command whose positions, whatever the state, end in `Finish` within 1256 CTRL steps, the number
the mutators take (log 10). -/
def EndsBounded (i : Instr) : Prop :=
  ∀ s, ∃ w ops, exec i s = runCommand w ops s ∧ EndsIn 1256 ops

theorem endsBounded_of_endsIn {i : Instr} {w : CmdWord} {ops : State → List Micro} {n : Nat} (hn : n ≤ 1256)
    (hexec : ∀ s, exec i s = runCommand w (ops s) s) (h : ∀ s, EndsIn n (ops s)) : EndsBounded i :=
  fun s => ⟨w, ops s, hexec s, (h s).mono hn⟩

/-- Each host command but the two blocking reads, by its family. -/
theorem endsBounded_hostCommand {i : Instr} (hhost : i.isHostCommand = true)
    (hpoll : ∀ arg, i ≠ .readVoltage arg ∧ i ≠ .readTemperature arg) : EndsBounded i := by
  have hok := endsIn_finish .ok
  cases i
  case busReset => exact endsBounded_of_endsIn (by decide) (fun _ => rfl) fun _ => endsIn_reset_none hok
  case writeBit =>
    exact endsBounded_of_endsIn (by decide) (fun _ => rfl) fun s => endsIn_gated (endsIn_writeBit hok) (by decide) s
  case readBit =>
    have hbit : EndsIn 8 (readBitOps ++ [.storeRxBit, .finish .ok]) := endsIn_readBit (endsIn_update fun _ => ⟨rfl, rfl⟩)
    exact endsBounded_of_endsIn (by decide) (fun _ => rfl) fun s => endsIn_gated hbit (by decide) s
  case writeByte =>
    exact endsBounded_of_endsIn (by decide) (fun _ => rfl) fun s => endsIn_gated (endsIn_writeByte hok) (by decide) s
  case readByte =>
    have hbyte : EndsIn 59 (readByteOps ++ [.storeRxByte, .finish .ok]) := endsIn_readByte (endsIn_update fun _ => ⟨rfl, rfl⟩)
    exact endsBounded_of_endsIn (by decide) (fun _ => rfl) fun s => endsIn_gated hbyte (by decide) s
  case readPage arg =>
    exact endsBounded_of_endsIn (by decide) (fun _ => rfl) fun _ => endsIn_checkedPage (endsIn_readPage hok) (by decide) arg
  case writePage arg =>
    exact endsBounded_of_endsIn (by decide) (fun _ => rfl) fun _ => endsIn_checkedPage (endsIn_writePage hok) (by decide) arg
  case startVConv | startTConv =>
    exact endsBounded_of_endsIn (by decide) (fun _ => rfl) fun _ => endsIn_startConversion hok
  case hasDataV | hasDataT | getCurrent | getCapacity =>
    exact endsBounded_of_endsIn (by decide) (fun _ => rfl) fun _ => endsIn_readPage (endsIn_update fun _ => ⟨rfl, rfl⟩)
  case enableIAD | disableIAD | enableCA | disableCA | selectInput =>
    exact endsBounded_of_endsIn le_rfl (fun _ => rfl) fun _ => endsIn_config _
  case decodeTemp | decodeVolt | decodeCurr | decodeCap =>
    exact endsBounded_of_endsIn (by decide) (fun _ => rfl) fun _ => endsIn_update fun _ => ⟨rfl, rfl⟩
  case readVoltage arg => exact absurd rfl (hpoll arg).1
  case readTemperature arg => exact absurd rfl (hpoll arg).2
  all_goals cases hhost

/-- What a command that an idle block accepts never changes: IE, OVR and the inputs still to come. -/
theorem runCommand_frame {s t : State} {w : CmdWord} {ops : List Micro} (hr : s.rstN = true) (hb : s.busy = false)
    (h : runCommand w ops s = .next t) : t.ie = s.ie ∧ t.ovr = s.ovr ∧ t.inputs = s.inputs := by
  rw [runCommand, offer_accepts hr hb] at h
  obtain rfl := Host.Outcome.next.inj h
  obtain ⟨-, -, hovr, hie, -, -, -, hinputs, -⟩ := ctrlSteps_frame (accepted w ops s).gap (accepted w ops s)
  exact ⟨hie, hovr, hinputs⟩

/-- Settles O58: the positions of the command end in `Finish` within the gap, and CTRL changes neither the enables nor the
inputs. -/
theorem boundedOperationsFinish : Obligations.BoundedOperationsFinish := by
  rintro i s hhost hpoll ⟨hr, hb, hgap⟩
  obtain ⟨w, ops, hexec, hends⟩ := endsBounded_hostCommand hhost hpoll s
  obtain ⟨c, u, hdone⟩ := runCommand_endsIn (w := w) hr hb hends hgap
  exact ⟨_, hexec.trans hdone, rfl, rfl, rfl, rfl, rfl, runCommand_frame hr hb hdone⟩

end Sys2Proof.Machine
end

section
/-! PROOFS. Nominal times (70_reset_and_hazards.md R381, R382): the instants and the line time of each slot for every timing
set, and how many resets and slots each frame of R144 has and how long it is at the defaults. -/

namespace Sys2Proof.Machine

/-! The slots, for every timing set (R381). -/

section

variable (ts : TimingSet)

theorem instants_frameReset (v : Bool) :
    instants ts 0 (frameReset v) = [(.low, 0), (.release, ts.tRSTL), (.sample v, ts.tRSTL + ts.tMSP)] := by
  rw [← Nat.zero_add ts.tRSTL]
  rfl

theorem instants_frameWriteBit (b : Bool) :
    instants ts 0 (frameWriteBit b) = [(.low, 0), (.release, if b then ts.tW1L else ts.tW0L)] := by
  rw [← Nat.zero_add (if b then ts.tW1L else ts.tW0L)]
  cases b <;> rfl

theorem instants_frameReadBit (v : Bool) :
    instants ts 0 (frameReadBit v) = [(.low, 0), (.release, ts.tRL), (.sample v, ts.tRL + ts.tRDV)] := by
  rw [← Nat.zero_add ts.tRL]
  rfl

theorem duration_frameReset (v : Bool) : duration ts (frameReset v) = ts.tRSTL + ts.tMSP + ts.tRSTHRem :=
  (Nat.add_assoc _ _ _).symm

theorem duration_frameWriteBit (b : Bool) :
    duration ts (frameWriteBit b) = if b then ts.tW1L + ts.tW1R else ts.tW0L + ts.tRec := by
  cases b <;> rfl

theorem duration_frameReadBit (v : Bool) : duration ts (frameReadBit v) = ts.tRL + ts.tRDV + ts.tRRec :=
  (Nat.add_assoc _ _ _).symm

/-- R7 makes the two write slots of a legal set equally long (R165). -/
theorem duration_writeSlots_of_legal {slack : Nat} (h : ts.legal slack = true) :
    duration ts (frameWriteBit true) = duration ts (frameWriteBit false) := by
  simp only [TimingSet.legal, Bool.and_eq_true, decide_eq_true_eq] at h
  obtain ⟨⟨⟨⟨⟨-, hslots⟩, -⟩, -⟩, -⟩, -⟩ := h
  exact (duration_frameWriteBit ts true).trans (hslots.trans (duration_frameWriteBit ts false).symm)

end

/-! The frames, counted (R382). -/

/-- The frame `f` has so many bus resets and bit slots, and takes so many microseconds at the defaults. -/
def FrameTotals (f : List Event) (resets slots micros : Nat) : Prop :=
  resetCount f = resets ∧ slotCount f = slots ∧ duration .default f = micros

theorem duration_append (ts : TimingSet) (f g : List Event) : duration ts (f ++ g) = duration ts f + duration ts g := by
  induction f with
  | nil => exact (Nat.zero_add _).symm
  | cons e f ih =>
    cases e with
    | wait t => simp only [List.cons_append, duration, ih, Nat.add_assoc]
    | low | release | sample => exact ih

theorem resetCount_append (f g : List Event) : resetCount (f ++ g) = resetCount f + resetCount g := List.count_append

theorem slotCount_append (f g : List Event) : slotCount (f ++ g) = slotCount f + slotCount g := by
  simp only [slotCount, List.count_append]
  omega

section

variable {f g : List Event} {r r' k k' m m' : Nat}

theorem frameTotals_nil : FrameTotals [] 0 0 0 := ⟨rfl, rfl, rfl⟩

theorem FrameTotals.append (hf : FrameTotals f r k m) (hg : FrameTotals g r' k' m') :
    FrameTotals (f ++ g) (r + r') (k + k') (m + m') := by
  obtain ⟨rfl, rfl, rfl⟩ := hf
  obtain ⟨rfl, rfl, rfl⟩ := hg
  exact ⟨resetCount_append f g, slotCount_append f g, duration_append _ f g⟩

/-- A frame made of equally long parts, one for each item of a list. -/
theorem frameTotals_flatMap {α : Type} {part : α → List Event} (h : ∀ x, FrameTotals (part x) r k m) (l : List α) :
    FrameTotals (l.flatMap part) (r * l.length) (k * l.length) (m * l.length) := by
  induction l with
  | nil => exact frameTotals_nil
  | cons x l ih =>
    rw [List.flatMap_cons, List.length_cons, Nat.mul_succ, Nat.mul_succ, Nat.mul_succ, Nat.add_comm _ r, Nat.add_comm _ k,
      Nat.add_comm _ m]
    exact (h x).append ih

end

theorem frameTotals_reset (v : Bool) : FrameTotals (frameReset v) 1 0 960 := by
  cases v <;> exact ⟨rfl, rfl, rfl⟩

theorem frameTotals_writeBit (b : Bool) : FrameTotals (frameWriteBit b) 0 1 70 := by
  cases b <;> exact ⟨rfl, rfl, rfl⟩

theorem frameTotals_readBit (v : Bool) : FrameTotals (frameReadBit v) 0 1 70 := by
  cases v <;> exact ⟨rfl, rfl, rfl⟩

/-- A byte is eight slots (R95, R167). -/
theorem frameTotals_writeByte (x : Byte) : FrameTotals (frameWriteByte x) 0 8 560 :=
  frameTotals_flatMap frameTotals_writeBit (byteBits x)

/-- A byte is eight slots (R95, R168). -/
theorem frameTotals_readByte (x : Byte) : FrameTotals (frameReadByte x) 0 8 560 :=
  frameTotals_flatMap frameTotals_readBit (byteBits x)

/-- A page is nine bytes (R90). -/
theorem frameTotals_page {part : Byte → List Event} (h : ∀ x, FrameTotals (part x) 0 8 560) (d : Page) :
    FrameTotals (d.toList.flatMap part) 0 72 5040 := by
  have hbytes := frameTotals_flatMap h d.toList
  rwa [Vector.length_toList] at hbytes

/-- The start of a conversion is a reset and two bytes (R291). -/
theorem frameTotals_start (c : Byte) : FrameTotals (frameStart c) 1 16 2080 :=
  ((frameTotals_reset false).append (frameTotals_writeByte 0xCC)).append (frameTotals_writeByte c)

/-- A handshake is a reset and three bytes (R136). -/
theorem frameTotals_handshake (c n : Byte) : FrameTotals (frameHandshake c n) 1 24 2640 :=
  (frameTotals_start c).append (frameTotals_writeByte n)

/-- A page read is two handshakes and a page (R201). -/
theorem frameTotals_readPage (n : Byte) (d : Page) : FrameTotals (frameReadPage n d) 2 120 10320 :=
  ((frameTotals_handshake 0xB8 n).append (frameTotals_handshake 0xBE n)).append (frameTotals_page frameTotals_readByte d)

/-- A page write is two handshakes and a page between them (R202). -/
theorem frameTotals_writePage (n : Byte) (d : Page) : FrameTotals (frameWritePage n d) 2 120 10320 :=
  ((frameTotals_handshake 0x4E n).append (frameTotals_page frameTotals_writeByte d)).append (frameTotals_handshake 0x48 n)

/-- Settles O59: the slots by their instants and line times, then each row of R382 by the frames it is made of. -/
theorem nominalFrameTimes : Obligations.NominalFrameTimes := by
  refine ⟨fun ts v => ?_, fun v => ⟨rfl, rfl, rfl, rfl⟩, fun f resets slots micros hrow => ?_⟩
  · exact ⟨instants_frameReset ts v, duration_frameReset ts v, rfl,
      instants_frameWriteBit ts true, duration_frameWriteBit ts true, rfl,
      instants_frameWriteBit ts false, duration_frameWriteBit ts false, rfl,
      instants_frameReadBit ts v, duration_frameReadBit ts v, rfl, fun _ => duration_writeSlots_of_legal ts⟩
  · show FrameTotals f resets slots micros
    obtain ⟨⟨v, rfl⟩, hrow⟩ | ⟨⟨b, rfl | rfl⟩, hrow⟩ | ⟨⟨x, rfl | rfl⟩, hrow⟩ | ⟨⟨n, d, rfl | rfl⟩, hrow⟩ | ⟨⟨c, rfl⟩, hrow⟩
      | ⟨⟨d, e, rfl⟩, hrow⟩ | ⟨c, p, polls, hlen, rfl, hrow⟩ | ⟨rfl, hrow⟩ := hrow
    all_goals obtain ⟨rfl, rfl, rfl⟩ := hrow
    · exact frameTotals_reset v
    · exact frameTotals_writeBit b
    · exact frameTotals_readBit b
    · exact frameTotals_writeByte x
    · exact frameTotals_readByte x
    · exact frameTotals_readPage n d
    · exact frameTotals_writePage n d
    · exact frameTotals_start c
    · exact (frameTotals_readPage 0 d).append (frameTotals_writePage 0 e)
    · subst hlen
      exact (frameTotals_start c).append (frameTotals_flatMap (frameTotals_readPage 0) polls)
    · exact frameTotals_nil

end Sys2Proof.Machine
end
